-- ==== Sys2Proof/Word.lean ====
section
/-! DEFINITION. The value types of the block. Every number is unsigned (00_scope.md R9, R12). -/

namespace Sys2Proof

/-- `u32`: a timestamp or a measured width, in milliseconds (R9). -/
abbrev U32 := BitVec 32

/-- `u8`: `secondIndex` and the numeric fields of the Telegram and of the CalendarRecord (R9, R38, R40). -/
abbrev U8 := BitVec 8

/-- Format `TG59` (30_encoding.md R95): the 59 bits `b[0..58]` of a telegram. Bit `i` of the vector is
telegram bit `i`, the bit of second `i` (20_memory.md R62; log entry 10). -/
abbrev Frame := BitVec 59

end Sys2Proof
end

