-- ==== Sys2Proof/Config.lean ====
section
/-! DEFINITION. What an implementation fixes (00_scope.md R8, R10) and the free value of the model. -/

namespace Sys2Proof

/-- The parameter `PARITY_MODE` (00_scope.md R10, 43_parity_validator.md R174). -/
inductive ParityMode where
  | perField
  | combinedLegacy
  deriving DecidableEq, Repr

/-- The configuration registers (10_state.md R44): naturals, milliseconds. The fields stand in `State.cfg`,
so that a statement over all states is a statement over all configurations (log entry 8). -/
structure Config where
  p0         : Nat
  p1         : Nat
  jitter     : Nat
  minSyncGap : Nat
  maxSyncGap : Nat
  parityMode : ParityMode
  deriving DecidableEq, Repr

/-- The defaults of 00_scope.md R8 and R10. -/
def Config.default : Config :=
  { p0 := 100, p1 := 200, jitter := 35, minSyncGap := 1800, maxSyncGap := 1900, parityMode := .perField }

/-- FREE VALUE. What `edgeLevel` holds after the operation `RESET`: the spec says "unspecified afterwards"
(45_system_ops.md R201; 93_implementation_defined.md U7, "any value"). The argument is the count of free values
used so far (`State.freeUses`). It has no body: nothing can be proved of it (log entry 5). -/
opaque Config.freeEdgeLevel : Nat → Bool

end Sys2Proof
end

