-- ==== Sys2Proof/Syntax.lean ====
section
/-! DEFINITION. The operations of the block (30_encoding.md R99, spec/opcode_table.json), one constructor per row,
and the words by which they are presented at its ports (R90, R91, R95, R97). -/

namespace Sys2Proof

/-- The operations. Every operand has exactly the width of its format, so no term is out of range. -/
inductive Instr where
  /-- `EDGE.RISE`: `EDGE(1, timestampMs)` (40_edge_classifier.md R128). -/
  | edgeRise (timestampMs : U32)
  /-- `EDGE.FALL`: `EDGE(0, timestampMs)` (R129). -/
  | edgeFall (timestampMs : U32)
  /-- `TAKE` (45_system_ops.md R203). -/
  | take
  /-- `RESET` (R201). -/
  | reset
  /-- `CAPTURE(l)`: the sampled level, `true` = high (R205). -/
  | capture (level : Bool)
  /-- `POLL.BEGIN(now)`: the clock read by this poll (R207). -/
  | pollBegin (now : U32)
  /-- `POLL.END` (R208). -/
  | pollEnd
  /-- `TELEGRAM`: the 59-bit frame as the assembler's input word (44_bcd_assembler.md R188). That it can be presented
  as an operation of its own is log entry 9. -/
  | telegram (frame : Frame)
  deriving DecidableEq, Repr

/-- The ports at which operations are presented, one per line or bus of 30_encoding.md R97 and R99. -/
inductive Port where
  | edge
  | take
  | reset
  | capture
  | pollBegin
  | pollEnd
  | frame
  deriving DecidableEq, Repr

/-- A word presented at a port, at the width of that port's format (R90). -/
inductive PortWord where
  /-- `EV33`: bit 32 the level, bits 31..0 the timestamp (R91). -/
  | edge (w : BitVec 33)
  /-- `STB` on the take line: 1 means "perform the operation" (R97). -/
  | take (line : BitVec 1)
  /-- `STB` on the reset line (R97). -/
  | reset (line : BitVec 1)
  /-- `CAP1`: the sampled level (R97). -/
  | capture (w : BitVec 1)
  /-- `NOW32`: the clock value (R97). -/
  | pollBegin (w : BitVec 32)
  /-- `STB` acknowledging a poll (R97). -/
  | pollEnd (line : BitVec 1)
  /-- `TG59`: the frame (R95). -/
  | frame (w : BitVec 59)
  deriving DecidableEq, Repr

/-- Why a word is no operation. -/
inductive DecodeReject where
  /-- A strobe line at 0: nothing is performed on it (R97). -/
  | idleLine (port : Port)
  /-- No format of 30_encoding.md R90 has this number of bits. -/
  | noFormat (nbits : Nat)
  /-- A bit above the format's width is set. -/
  | paddingSet (nbits w : Nat)
  deriving DecidableEq, Repr

end Sys2Proof
end

