-- ==== Sys2Proof/WellFormed.lean ====
section
/-! DEFINITION. Well-formedness of operations and of configurations. -/

namespace Sys2Proof

/-- Every operation is well formed: the operands of `Instr` have the exact widths of their formats and the spec
reserves no value of any of them ("Every one of the `2^33` words is a legal operand", 30_encoding.md R91; "The
block has no illegal operation", R101). The match names every constructor, so that a new one has to say its own
check (log entry 20). -/
def Instr.wellFormed : Instr → Bool
  | .edgeRise _  => true
  | .edgeFall _  => true
  | .take        => true
  | .reset       => true
  | .capture _   => true
  | .pollBegin _ => true
  | .pollEnd     => true
  | .telegram _  => true

/-- The constraints 00_scope.md R10 assumes of an overridden configuration: the sync window is not inverted and
the two pulse windows do not overlap, `P0 + JITTER < P1 - JITTER` in the integers. No meaning relies on it: the
rules are total, and R127 says what overlapping windows do. -/
def Config.wf (c : Config) : Bool :=
  decide (c.minSyncGap ≤ c.maxSyncGap) && decide ((c.p0 : Int) + c.jitter < (c.p1 : Int) - c.jitter)

end Sys2Proof
end

