-- ==== Sys2Proof/Decode.lean ====
section
/-! DEFINITION. From a presented word to an operation and back (30_encoding.md R91, R95, R97, R100), and the reading
of a table word, whose bits are numbered as spec/opcode_table.json numbers them. -/

namespace Sys2Proof

/-- An operation that is strobed by one line: value 1 performs it, value 0 performs nothing (R97). -/
def strobe (port : Port) (i : Instr) (line : BitVec 1) : Except DecodeReject Instr :=
  if line = 1#1 then .ok i else .error (.idleLine port)

/-- The operation a presented word stands for. On the `EDGE` port bit 32 selects `EDGE.RISE` (1) or `EDGE.FALL` (0)
and the low 32 bits are the timestamp, any value (R100). -/
def decode : PortWord → Except DecodeReject Instr
  | .edge w       =>
      .ok (if w.getLsbD 32 then .edgeRise (w.extractLsb' 0 32) else .edgeFall (w.extractLsb' 0 32))
  | .take line    => strobe .take .take line
  | .reset line   => strobe .reset .reset line
  | .capture w    => .ok (.capture (w.getLsbD 0))
  | .pollBegin w  => .ok (.pollBegin w)
  | .pollEnd line => strobe .pollEnd .pollEnd line
  | .frame w      => .ok (.telegram w)

/-- `EV33` (R91): the level above the timestamp. -/
def packEdge (level : Bool) (timestampMs : U32) : BitVec 33 :=
  BitVec.ofBool level ++ timestampMs

/-- The word that presents an operation, by the same formats. -/
def encode : Instr → PortWord
  | .edgeRise t    => .edge (packEdge true t)
  | .edgeFall t    => .edge (packEdge false t)
  | .take          => .take 1#1
  | .reset         => .reset 1#1
  | .capture level => .capture (BitVec.ofBool level)
  | .pollBegin now => .pollBegin now
  | .pollEnd       => .pollEnd 1#1
  | .telegram b    => .frame b

/-- `w` as a word of `width` bits, refused if a bit above them is set. -/
def exactly (width nbits w : Nat) (mk : BitVec width → PortWord) : Except DecodeReject PortWord :=
  if w < 2 ^ width then .ok (mk (BitVec.ofNat width w)) else .error (.paddingSet nbits w)

/-- A one-bit table word. Four rows of the table have one bit, and which line it stands on is no bit of the word
(R97). A 0 can only be `CAPTURE` of a low level, since a strobe at 0 performs nothing; a 1 is read as the table's
first one-bit row, `TAKE` (log entry 11). -/
def oneBitWord (line : BitVec 1) : PortWord :=
  if line = 1#1 then .take line else .capture line

/-- The presented word that a table word of `nbits` bits is: the format is the one of that many bits (R90), alone
or filled up to whole bytes. Bit `i` of a 59-bit word is telegram bit `i` (log entry 10). -/
def tableWord (nbits w : Nat) : Except DecodeReject PortWord :=
  if nbits = 1 ∨ nbits = 8 then exactly 1 nbits w oneBitWord
  else if nbits = 32 then exactly 32 nbits w .pollBegin
  else if nbits = 33 ∨ nbits = 40 then exactly 33 nbits w .edge
  else if nbits = 59 ∨ nbits = 64 then exactly 59 nbits w .frame
  else .error (.noFormat nbits)

/-- The operation the decoder reads from a table word; `none` where it rejects it. -/
def decodeTableWord (nbits w : Nat) : Option Instr :=
  ((tableWord nbits w).bind decode).toOption

/-- A presented word as a table word: its width in whole bytes, and its bits as one number. -/
def PortWord.toTable : PortWord → Nat × Nat
  | .edge w       => (40, w.toNat)
  | .take line    => (8, line.toNat)
  | .reset line   => (8, line.toNat)
  | .capture w    => (8, w.toNat)
  | .pollBegin w  => (32, w.toNat)
  | .pollEnd line => (8, line.toNat)
  | .frame w      => (64, w.toNat)

end Sys2Proof
end

