-- ==== Sys2Proof/Machine/State.lean ====
section
/-! DEFINITION. The state of the block (10_state.md), every field of it plain data, and the state after reset (R50). -/

namespace Sys2Proof.Machine

/-- A symbol of the BitBuffer (10_state.md R33, 30_encoding.md R92). -/
inductive Symbol where
  | unset
  | zero
  | one
  deriving DecidableEq, Repr

/-- The BitBuffer as addressed memory (20_memory.md R60): a list of (address, symbol) pairs in one canonical form,
addresses strictly rising, none above 58, none `unset`. An unlisted address reads `unset`, the reset contents (R33;
log entry 12). `Memory.wf` in Machine/Ops.lean states the form. -/
abbrev Memory := List (Nat × Symbol)

/-- The DST flag of a Telegram (10_state.md R38). -/
inductive DstFlag where
  | unknown
  | standard
  | daylight
  deriving DecidableEq, Repr

/-- The Telegram record (10_state.md R38). -/
structure Telegram where
  dstFlag    : DstFlag
  minute     : U8
  hour       : U8
  dayOfMonth : U8
  weekday    : U8
  month      : U8
  year       : U8
  deriving DecidableEq, Repr

/-- The raw field values `FieldsOf` extracts from a frame (44_bcd_assembler.md R183). -/
structure Fields where
  dstRaw     : Nat
  minute     : Nat
  hour       : Nat
  dayOfMonth : Nat
  weekday    : Nat
  month      : Nat
  year       : Nat
  deriving DecidableEq, Repr

/-- The CalendarRecord, owned by the caller (10_state.md R40). -/
structure Calendar where
  second     : U8
  minute     : U8
  hour       : U8
  dayOfMonth : U8
  weekday    : U8
  month      : U8
  year       : U8
  dstFlag    : DstFlag
  deriving DecidableEq, Repr

/-- What the tap shows in one step (10_state.md R45, 42_bit_accumulator.md R161). -/
inductive Tap where
  | none
  | char0
  | char1
  | star
  deriving DecidableEq, Repr

/-- The per-step outputs (10_state.md R45). Undriven, each is 0 or none. -/
structure StepOut where
  minuteBoundary : Bool := false
  telegramStrobe : Bool := false
  tap            : Tap := .none
  deriving DecidableEq, Repr

/-- The kind of a PulseMeasurement (30_encoding.md R93). -/
inductive MeasureKind where
  | pulse
  | gap
  deriving DecidableEq, Repr

/-- A PulseMeasurement (R93): a value inside one step, never state (10_state.md R24). -/
structure PulseMeasurement where
  kind    : MeasureKind
  widthMs : U32
  deriving DecidableEq, Repr

/-- The result of `Classify` (40_edge_classifier.md R126). -/
inductive PulseClass where
  | zero
  | one
  | unrecognized
  deriving DecidableEq, Repr

/-- The outcome labels of a step (60_exceptions.md R221). A recognized class is given as its bit. -/
inductive Label where
  | noMeasurement
  | syncDetected (g : U32)
  | noSync (g : U32)
  | unrecognizedWidth (w : U32)
  | acquiringEcho (w : U32) (bit : Bool)
  | overrun (w : U32) (bit : Bool)
  | bitStored (i : Nat) (bit : Bool)
  | parityFailure (okMinutes okHours okDate : Bool)
  | telegramAssembled
  | taken
  | resetDone
  | nothingPending
  | nothingToEnd
  deriving DecidableEq, Repr

/-- The control phase, a view of the state (10_state.md R32). -/
inductive Phase where
  | acquiring
  | synchronizing (i : Nat)
  | complete
  deriving DecidableEq, Repr

/-- Faults: NONE. "The block has no trap. Nothing in this core is fatal" (60_exceptions.md R220): no operation stops
the machine, and the errors of R222 to R225 end their step normally, as labels. Nobody raises a fault; having none
is safe, since every step then has the next state its rule gives. -/
inductive Fault where
  deriving DecidableEq, Repr

/-- Refusals. -/
inductive Refusal where
  /-- An operation without a meaning in the model, rejected by name in `exec`; no arm of `exec` answers so now.
  Safe: nothing is claimed of the operation. -/
  | notModelled (mnemonic : String)
  deriving DecidableEq, Repr

/-- The state. Each field names its rule in spec/10_state.md. -/
structure State where
  /-- R21, R23: the timestamp of the last `EDGE` of level 1; `none` while `tRiseValid = 0`. -/
  tRise         : Option U32
  /-- R22, R23: the timestamp of the last `EDGE` of level 0; `none` while `tFallValid = 0`. -/
  tFall         : Option U32
  /-- R31. -/
  synchronized  : Bool
  /-- R30: the slot the next accepted bit goes to. -/
  secondIndex   : U8
  /-- R33: the 59 slots. -/
  buf           : Memory
  /-- R36: an output pin, inverted per stored bit. -/
  indicator     : Bool
  /-- R38: the last valid Telegram. -/
  tg            : Option Telegram
  /-- R39. -/
  telegramFresh : Bool
  /-- R40: the caller's record, written and never read by the core. -/
  cal           : Calendar
  /-- R42: the level sampled by the last `CAPTURE`. -/
  edgeLevel     : Bool
  /-- R42. -/
  edgePending   : Bool
  /-- R43. -/
  pollBusy      : Bool
  /-- R44: the configuration registers; no operation writes them. -/
  cfg           : Config
  /-- R45: the outputs of the last step (log entry 3). -/
  out           : StepOut
  /-- 60_exceptions.md R221: the labels of the last step (log entry 3). -/
  outcome       : List Label
  /-- 00_scope.md R6: what the environment has presented and the block has not yet performed, oldest first
  (log entry 1). -/
  input         : List PortWord
  /-- How many free values have been used (log entry 14). -/
  freeUses      : Nat
  deriving DecidableEq, Repr

/-- The caller's record before the core has written it: the spec gives no value (R40, R50); each field is 0 and the
DST flag `unknown` by DESIGN CHOICE (log entry 7). -/
def Calendar.unwritten : Calendar :=
  { second := 0, minute := 0, hour := 0, dayOfMonth := 0, weekday := 0, month := 0, year := 0, dstFlag := .unknown }

/-- The state after reset (R50) with the configuration `c` chosen before reset is released (R44, R262). `edgeLevel`
and `cal` have no value in the spec: DESIGN CHOICE, log entries 6 and 7. -/
def State.resetWith (c : Config) : State :=
  { tRise := none, tFall := none, synchronized := false, secondIndex := 0, buf := [], indicator := false,
    tg := none, telegramFresh := false, cal := Calendar.unwritten, edgeLevel := false, edgePending := false,
    pollBusy := false, cfg := c, out := {}, outcome := [], input := [], freeUses := 0 }

/-- The state after reset with the default configuration (R50). -/
def State.reset : State := State.resetWith Config.default

end Sys2Proof.Machine
end

