-- ==== Sys2Proof/Machine/Operands.lean ====
section
/-! DEFINITION. How each computed operand is assembled (30_encoding.md R98): widths, windows, classes, symbols as
bits, BCD fields, the DST flag. -/

namespace Sys2Proof.Machine

/-- `sub32(a, b) = (a - b) mod 2^32` (40_edge_classifier.md R122). -/
def sub32 (a b : U32) : U32 := a - b

/-- `MeasureGap(now)` (R123); no value while `tFallValid = 0`. -/
def State.measureGap (now : U32) (s : State) : Option PulseMeasurement :=
  s.tFall.map fun t => { kind := .gap, widthMs := sub32 now t }

/-- `MeasurePulse(now)` (R124); no value while `tRiseValid = 0`. -/
def State.measurePulse (now : U32) (s : State) : Option PulseMeasurement :=
  s.tRise.map fun t => { kind := .pulse, widthMs := sub32 now t }

/-- `InWin(v, lo, hi, j)`: `lo - j <= v <= hi + j` in the mathematical integers, both bounds inclusive (R125). -/
def inWin (v : U32) (lo hi j : Nat) : Bool :=
  decide ((lo : Int) - j ≤ v.toNat) && decide ((v.toNat : Int) ≤ (hi : Int) + j)

/-- `Classify(w)` (R126); the zero window is tested first (R127). -/
def classify (c : Config) (w : U32) : PulseClass :=
  if inWin w c.p0 c.p0 c.jitter then .zero
  else if inWin w c.p1 c.p1 c.jitter then .one
  else .unrecognized

/-- The class that recognizes a pulse as the given bit. -/
def PulseClass.ofBit : Bool → PulseClass
  | false => .zero
  | true  => .one

/-- `IsSyncGap(g)` (41_synchronizer.md R141). -/
def isSyncGap (c : Config) (g : U32) : Bool :=
  inWin g c.minSyncGap c.maxSyncGap c.jitter

/-- The symbol that a recognized bit is stored as. -/
def Symbol.ofBit : Bool → Symbol
  | false => .zero
  | true  => .one

/-- `bit(s)` (20_memory.md R65): not defined for `Unset`. -/
def Symbol.bit : Symbol → Option Bool
  | .unset => none
  | .zero  => some false
  | .one   => some true

/-- The bits `f 0, …, f (n-1)` as one word, bit `i` being `f i`. -/
def packBits (f : Nat → Bool) : (n : Nat) → BitVec n
  | 0     => 0#0
  | n + 1 => BitVec.cons (f n) (packBits f n)

/-- `count` bits of a frame from index `first` on, in index order (20_memory.md R62). -/
def frameBits (b : Frame) (first count : Nat) : List Bool :=
  (List.range count).map fun i => b.getLsbD (first + i)

/-- The BCD place values (00_scope.md R7). -/
def bcdWeights : List Nat := [1, 2, 4, 8, 10, 20, 40, 80]

/-- `Bcd(b, first, count)`: the sum of `b[first + i] * W[i]` (44_bcd_assembler.md R181). -/
def bcd (b : Frame) (first count : Nat) : Nat :=
  ((List.range count).map fun i => (b.getLsbD (first + i)).toNat * bcdWeights.getD i 0).sum

/-- `FieldsOf(b)`, the field map (R183). -/
def fieldsOf (b : Frame) : Fields :=
  { dstRaw     := bcd b 17 2
    minute     := bcd b 21 7
    hour       := bcd b 29 6
    dayOfMonth := bcd b 36 6
    weekday    := bcd b 42 3
    month      := bcd b 45 5
    year       := bcd b 50 8 }

/-- `DstOf(v)` (R184). -/
def dstOf (v : Nat) : DstFlag :=
  if v = 2 then .standard else if v = 1 then .daylight else .unknown

/-- The Telegram of a frame: each raw sum held in a `u8`, the DST value mapped (R188). No field is checked (R182). -/
def telegramOf (b : Frame) : Telegram :=
  let f := fieldsOf b
  { dstFlag    := dstOf f.dstRaw
    minute     := BitVec.ofNat 8 f.minute
    hour       := BitVec.ofNat 8 f.hour
    dayOfMonth := BitVec.ofNat 8 f.dayOfMonth
    weekday    := BitVec.ofNat 8 f.weekday
    month      := BitVec.ofNat 8 f.month
    year       := BitVec.ofNat 8 f.year }

end Sys2Proof.Machine
end

