-- ==== Sys2Proof/Machine/Flags.lean ====
section
/-! DEFINITION. The one-bit results: the valid bits, the parity checks, the phase view (10_state.md R23, R32, R47;
43_parity_validator.md). -/

namespace Sys2Proof.Machine

/-- `tRiseValid` (10_state.md R23). -/
def State.tRiseValid (s : State) : Bool := s.tRise.isSome

/-- `tFallValid` (R23). -/
def State.tFallValid (s : State) : Bool := s.tFall.isSome

/-- How many of the bits `b[i]`, `i` in `[lo, hi)`, are 1. -/
def onesIn (b : Frame) (lo hi : Nat) : Nat :=
  ((frameBits b lo (hi - lo)).map Bool.toNat).sum

/-- `GroupParity(b, lo, hi)`, 0 or 1 (43_parity_validator.md R171). -/
def groupParity (b : Frame) (lo hi : Nat) : Nat := onesIn b lo hi % 2

/-- `okMinutes` (R172). -/
def okMinutes (b : Frame) : Bool := groupParity b 21 29 == 0

/-- `okHours` (R172). -/
def okHours (b : Frame) : Bool := groupParity b 29 36 == 0

/-- `okDate` (R172). -/
def okDate (b : Frame) : Bool := groupParity b 36 59 == 0

/-- `ParityCombined(b)`, the legacy check (R173). -/
def parityCombined (b : Frame) : Bool := groupParity b 21 59 == 0

/-- `ParityOK(b)` under the parameter `PARITY_MODE` (R174). -/
def parityOK (mode : ParityMode) (b : Frame) : Bool :=
  match mode with
  | .perField       => okMinutes b && okHours b && okDate b
  | .combinedLegacy => parityCombined b

/-- The phase (10_state.md R32). An index above 59 is in no reachable state; it counts as full, as the overrun
test of 42_bit_accumulator.md R157 takes it (log entry 21). -/
def State.phase (s : State) : Phase :=
  if s.synchronized then
    if s.secondIndex.toNat < 59 then .synchronizing s.secondIndex.toNat else .complete
  else .acquiring

end Sys2Proof.Machine
end

