-- ==== Sys2Proof/Machine/Ops.lean ====
section
/-! DEFINITION. The shared operations: the buffer's primitives (20_memory.md), what every operation does to its labels
and outputs, the pipeline components from the Synchronizer to the Telegram Assembler, the environment's actions. -/

namespace Sys2Proof.Machine

/-! ### The buffer -/

/-- The symbol at an address; an unlisted address reads `unset`. -/
def Memory.read : Memory → Nat → Symbol
  | [], _          => .unset
  | (b, x) :: m, a => if a = b then x else Memory.read m a

/-- Sets one address of a canonical list, keeping it canonical: `unset` removes the entry. -/
def Memory.set : Memory → Nat → Symbol → Memory
  | [], a, c          => if c = .unset then [] else [(a, c)]
  | (b, x) :: m, a, c =>
      if a < b then (if c = .unset then (b, x) :: m else (a, c) :: (b, x) :: m)
      else if a = b then (if c = .unset then m else (a, c) :: m)
      else (b, x) :: Memory.set m a c

/-- `BufWrite(i, s)` (20_memory.md R63). The one caller passes an index of at most 58 (R68); above it nothing is
written ("rather than writing out of bounds", 42_bit_accumulator.md R157). -/
def Memory.bufWrite (m : Memory) (i : Nat) (c : Symbol) : Memory :=
  if i < 59 then Memory.set m i c else m

/-- `BufRead(first, count)` (R64). -/
def Memory.bufRead (m : Memory) (first count : Nat) : List Symbol :=
  (List.range count).map fun k => Memory.read m (first + k)

/-- `BufClear()`: every slot `Unset` (R70). -/
def Memory.bufClear (_ : Memory) : Memory := []

/-- All 59 slots are set. -/
def Memory.full (m : Memory) : Bool :=
  (Memory.bufRead m 0 59).all fun c => decide (c ≠ .unset)

/-- `ToBits(buf)`: the frame `b[i] = bit(buf[i])` of a full buffer, no value otherwise (R65). -/
def Memory.toBits (m : Memory) : Option Frame :=
  if Memory.full m then some (packBits (fun i => decide (Memory.read m i = .one)) 59) else none

/-- The addresses from `lo` on are strictly rising and at most 58, and no entry is `unset`. -/
def Memory.wfFrom : Nat → Memory → Bool
  | _, []           => true
  | lo, (a, c) :: m => decide (lo ≤ a) && decide (a < 59) && decide (c ≠ .unset) && Memory.wfFrom (a + 1) m

/-- The canonical form: equal buffers are equal lists. -/
def Memory.wf (m : Memory) : Bool := Memory.wfFrom 0 m

/-! ### Labels and outputs of a step -/

/-- The start of every step: no output is driven and no label attached yet ("Every output is `0` / `none` in a step
whose rule does not drive it", 10_state.md R45). -/
def State.startOp (s : State) : State := { s with out := {}, outcome := [] }

/-- `signal`, and the attaching of an outcome label: the label is recorded, control does not transfer, no state is
saved, the step ends as its rule says (00_scope.md R13; 60_exceptions.md R233). This is all that "taking an
exception" is on this block. -/
def State.signal (l : Label) (s : State) : State := { s with outcome := s.outcome ++ [l] }

/-! ### The Synchronizer -/

/-- `SyncFire()` (41_synchronizer.md R146). -/
def State.syncFire (g : U32) (s : State) : State :=
  State.signal (.syncDetected g)
    { s with
      synchronized := true
      secondIndex  := 0
      buf          := Memory.bufClear s.buf
      cal          := { s.cal with second := 0 }
      out          := { s.out with minuteBoundary := true } }

/-- `SyncIdle()` (R147). -/
def State.syncIdle (g : U32) (s : State) : State := State.signal (.noSync g) s

/-- `SyncDetect(g)` (R145). -/
def State.syncDetect (g : U32) (s : State) : State :=
  if isSyncGap s.cfg g then s.syncFire g else s.syncIdle g

/-! ### The Telegram Assembler -/

/-- `ProjectToCalendar()` (44_bcd_assembler.md R190): the values unchanged, the seconds forced to 0. -/
def projectToCalendar (t : Telegram) : Calendar :=
  { second := 0, minute := t.minute, hour := t.hour, dayOfMonth := t.dayOfMonth, weekday := t.weekday,
    month := t.month, year := t.year, dstFlag := t.dstFlag }

/-- `Assemble(b)` (R188). -/
def State.assemble (b : Frame) (s : State) : State :=
  State.signal .telegramAssembled
    { s with
      tg            := some (telegramOf b)
      cal           := projectToCalendar (telegramOf b)
      telegramFresh := true
      out           := { s.out with telegramStrobe := true } }

/-- The parity gate of `Complete` on a frame: assemble it, or signal the failure with the three group results and change nothing
else (42_bit_accumulator.md R159; 44_bcd_assembler.md R192; 60_exceptions.md R223). -/
def State.validate (b : Frame) (s : State) : State :=
  if parityOK s.cfg.parityMode b then s.assemble b
  else s.signal (.parityFailure (okMinutes b) (okHours b) (okDate b))

/-! ### The Bit Accumulator -/

/-- `Complete()` (42_bit_accumulator.md R159). `ToBits` has a value in every reachable state here; where it has none
the validator and the assembler are not invoked (20_memory.md R65; log entry 13). -/
def State.complete (s : State) : State :=
  match Memory.toBits s.buf with
  | some b => s.validate b
  | none   => s

/-- What the tap shows for a stored bit (R161). -/
def Tap.ofBit : Bool → Tap
  | false => .char0
  | true  => .char1

/-- The writes of `Store(c)` before the test for completion (R158). -/
def State.storeBit (bit : Bool) (s : State) : State :=
  State.signal (.bitStored s.secondIndex.toNat bit)
    { s with
      buf         := Memory.bufWrite s.buf s.secondIndex.toNat (Symbol.ofBit bit)
      secondIndex := s.secondIndex + 1
      indicator   := !s.indicator
      out         := { s.out with tap := Tap.ofBit bit } }

/-- `Store(c)` (R158). -/
def State.store (bit : Bool) (s : State) : State :=
  let t := s.storeBit bit
  if t.secondIndex.toNat = 59 then t.complete else t

/-- Tests 2 to 4 of `Accumulate(c)` on a recognized pulse (R155 to R158). -/
def State.accumulateBit (w : U32) (bit : Bool) (s : State) : State :=
  if s.synchronized = false then
    State.signal (.acquiringEcho w bit) { s with out := { s.out with tap := .star } }
  else if 59 ≤ s.secondIndex.toNat then s.signal (.overrun w bit)
  else s.store bit

/-- `Accumulate(c)` for a pulse of width `w` (R155). -/
def State.accumulate (w : U32) (c : PulseClass) (s : State) : State :=
  match c with
  | .unrecognized => s.signal (.unrecognizedWidth w)
  | .zero         => s.accumulateBit w false
  | .one          => s.accumulateBit w true

/-! ### Reset -/

/-- What `RESET` writes (45_system_ops.md R201). `cal` and the configuration are not written; `edgeLevel` is
unspecified afterwards, a free value (log entry 5). -/
def State.resetRegisters (s : State) : State :=
  { s with
    tRise         := none
    tFall         := none
    synchronized  := false
    secondIndex   := 0
    buf           := Memory.bufClear s.buf
    indicator     := false
    tg            := none
    telegramFresh := false
    edgePending   := false
    pollBusy      := false
    edgeLevel     := Config.freeEdgeLevel s.freeUses
    freeUses      := s.freeUses + 1 }

/-! ### The environment -/

/-- The oldest presented word, and the state without it. -/
def State.fetch (s : State) : Option (PortWord × State) :=
  match s.input with
  | []        => none
  | p :: rest => some (p, { s with input := rest })

/-- Puts a word where the next step fetches. -/
def State.placeWord (p : PortWord) (s : State) : State := { s with input := p :: s.input }

/-- The order in which words presented at one time are performed (60_exceptions.md R231): `RESET` is performed and
the others are dropped; `EDGE` comes before `TAKE`. The words of the other ports keep the order given, and `TAKE`
comes after them too (log entry 15). -/
def serialise (ws : List PortWord) : List PortWord :=
  if ws.contains (.reset 1#1) then [.reset 1#1]
  else ws.filter (fun p => decide (p ≠ .take 1#1)) ++ ws.filter (fun p => decide (p = .take 1#1))

/-- The environment presents words, all at one time. -/
def State.present (ws : List PortWord) (s : State) : State := { s with input := s.input ++ serialise ws }

/-- The host writes its record between two operations (10_state.md R40; log entry 16). -/
def State.hostWriteCal (c : Calendar) (s : State) : State := { s with cal := c }

end Sys2Proof.Machine
end

