-- ==== Sys2Proof/Machine/Assembler.lean ====
section
/-! DEFINITION. The operation `TELEGRAM`: the frame as the Telegram Assembler's input word (44_bcd_assembler.md). -/

namespace Sys2Proof.Machine

/-- Operation `TELEGRAM` (R188). Its precondition is "the buffer is full and `ParityOK(b)` holds", with
`b = ToBits(buf)` (R180). Where the precondition fails the assembler is not invoked and nothing is written (R192), and
no error is raised: R188 signals none, and only `EDGE.FALL` raises any (60_exceptions.md R226). That such a step carries
no outcome label is the model's choice, since R221 lists none for it (DESIGN CHOICE, log entry 23). -/
def execTelegram (b : Frame) (s : State) : Host.Outcome State Fault Refusal :=
  if Memory.toBits s.buf = some b ∧ parityOK s.cfg.parityMode b = true then .next (s.startOp.assemble b)
  else .next s.startOp

end Sys2Proof.Machine
end

