-- ==== Sys2Proof/Machine/Edge.lean ====
section
/-! DEFINITION. The Edge Classifier's two operations, `EDGE.RISE` and `EDGE.FALL` (40_edge_classifier.md). -/

namespace Sys2Proof.Machine

/-- `EDGE.RISE(now)` (R128). Without a valid `tFall` no measurement is made (R131). -/
def State.edgeRise (now : U32) (s : State) : State :=
  let t := match s.measureGap now with
    | some m => s.syncDetect m.widthMs
    | none   => s.signal .noMeasurement
  { t with tRise := some now }

/-- `EDGE.FALL(now)` (R129). Without a valid `tRise` no measurement is made (R131). -/
def State.edgeFall (now : U32) (s : State) : State :=
  let t := match s.measurePulse now with
    | some m => s.accumulate m.widthMs (classify s.cfg m.widthMs)
    | none   => s.signal .noMeasurement
  { t with tFall := some now }

/-- `EDGE(level, timestampMs)`: the level alone selects the rule (45_system_ops.md R210; 40_edge_classifier.md R130). -/
def State.edge (level : Bool) (now : U32) (s : State) : State :=
  if level then s.edgeRise now else s.edgeFall now

/-- Operation `EDGE.RISE` (R128). -/
def execEdgeRise (now : U32) (s : State) : Host.Outcome State Fault Refusal :=
  .next (s.startOp.edgeRise now)

/-- Operation `EDGE.FALL` (R129). -/
def execEdgeFall (now : U32) (s : State) : Host.Outcome State Fault Refusal :=
  .next (s.startOp.edgeFall now)

end Sys2Proof.Machine
end

