-- ==== Sys2Proof/Machine/Mailbox.lean ====
section
/-! DEFINITION. The platform-level operations on the edge mailbox: `CAPTURE`, `POLL.BEGIN`, `POLL.END`
(45_system_ops.md). -/

namespace Sys2Proof.Machine

/-- Operation `CAPTURE(l)` (R205): both cells in one step, whatever the mailbox holds. -/
def execCapture (level : Bool) (s : State) : Host.Outcome State Fault Refusal :=
  .next { s.startOp with edgeLevel := level, edgePending := true }

/-- Operation `POLL.BEGIN(now)` (R207): performs `EDGE(edgeLevel, now)` when an edge is pending and no poll is under
way; the flag is not cleared. -/
def execPollBegin (now : U32) (s : State) : Host.Outcome State Fault Refusal :=
  if s.pollBusy = false ∧ s.edgePending = true then
    .next { s.startOp.edge s.edgeLevel now with pollBusy := true }
  else .next (s.startOp.signal .nothingPending)

/-- Operation `POLL.END` (R208): clears the flag without looking at it again. -/
def execPollEnd (s : State) : Host.Outcome State Fault Refusal :=
  if s.pollBusy = true then .next { s.startOp with edgePending := false, pollBusy := false }
  else .next (s.startOp.signal .nothingToEnd)

end Sys2Proof.Machine
end

