-- ==== Sys2Proof/Machine/System.lean ====
section
/-! DEFINITION. The core-level system operations `TAKE` and `RESET` (45_system_ops.md). -/

namespace Sys2Proof.Machine

/-- Operation `TAKE` (R203): the host acknowledges the fresh telegram. -/
def execTake (s : State) : Host.Outcome State Fault Refusal :=
  .next (State.signal .taken { s.startOp with telegramFresh := false })

/-- Operation `RESET` (R201). -/
def execReset (s : State) : Host.Outcome State Fault Refusal :=
  .next (State.signal .resetDone s.startOp.resetRegisters)

end Sys2Proof.Machine
end

