-- ==== Sys2Proof/Machine/Dispatch.lean ====
section
/-! DEFINITION. One arm per operation of spec/opcode_table.json (30_encoding.md R99). -/

namespace Sys2Proof.Machine

def exec (i : Instr) (s : State) : Host.Outcome State Fault Refusal :=
  match i with
  | .edgeRise t => Sys2Proof.Machine.execEdgeRise t s
  | .edgeFall t => Sys2Proof.Machine.execEdgeFall t s
  | .take => Sys2Proof.Machine.execTake s
  | .reset => Sys2Proof.Machine.execReset s
  | .capture level => Sys2Proof.Machine.execCapture level s
  | .pollBegin now => Sys2Proof.Machine.execPollBegin now s
  | .pollEnd => Sys2Proof.Machine.execPollEnd s
  | .telegram b => Sys2Proof.Machine.execTelegram b s

end Sys2Proof.Machine
end

