-- ==== Sys2Proof/Machine/Step.lean ====
section
/-! DEFINITION. One step of the block: the oldest presented word is decoded and its operation performed, from its
first statement to its last (20_memory.md R72). -/

namespace Sys2Proof.Machine

/-- One step. Where nothing is presented, or only a strobe line at 0, no operation is performed: no register
changes and no output is driven (70_reset_and_hazards.md R261, R276; 10_state.md R45; log entry 2). -/
def step (s : State) : Host.Outcome State Fault Refusal :=
  match s.fetch with
  | none        => .next s.startOp
  | some (p, t) =>
      match decode p with
      | .ok i    => exec i t
      | .error _ => .next t.startOp

/-- `s` with a table word presented before everything else, so that the very next step performs it; unchanged where
the number is no word of any format (log entry 1). -/
def State.withFetchWord (s : State) (nbits w : Nat) : State :=
  match tableWord nbits w with
  | .ok p    => s.placeWord p
  | .error _ => s

end Sys2Proof.Machine
end

