-- ==== Sys2Proof/Machine/Formats.lean ====
section
/-! DEFINITION. The packings of values that appear at no port of the model: `SYM2`, `PM33`, `SS9`, `TGR`
(30_encoding.md R92, R93, R94, R96), and the telegram as a string of characters (20_memory.md R62). No meaning calls
them: they are how a reader of the spec writes these values. -/

namespace Sys2Proof.Machine

/-- `SYM2` (R92): bit 1 is "slot is set", bit 0 is the bit value. -/
def Symbol.code : Symbol → BitVec 2
  | .unset => 0b00#2
  | .zero  => 0b10#2
  | .one   => 0b11#2

/-- The symbol of a code; `01` is reserved and stands for none (R92). -/
def symbolOfCode (w : BitVec 2) : Option Symbol :=
  if w = 0b00#2 then some .unset
  else if w = 0b10#2 then some .zero
  else if w = 0b11#2 then some .one
  else none

/-- `PM33` (R93): bit 32 is the kind (0 = Pulse, 1 = Gap), bits 31..0 the width. -/
def PulseMeasurement.pack (m : PulseMeasurement) : BitVec 33 :=
  BitVec.ofBool (decide (m.kind = .gap)) ++ m.widthMs

/-- `SS9` (R94): bit 8 is `synchronized`, bits 7..0 are `secondIndex`. -/
def State.syncStateWord (s : State) : BitVec 9 :=
  BitVec.ofBool s.synchronized ++ s.secondIndex

/-- The 2-bit code of the DST flag (R96); `11` is never produced. -/
def DstFlag.code : DstFlag → BitVec 2
  | .unknown  => 0b00#2
  | .daylight => 0b01#2
  | .standard => 0b10#2

/-- `TGR` (R96): the DST code, then the six `u8` fields in the order the rule names them, the code in the highest
bits (log entry 17). -/
def Telegram.pack (t : Telegram) : BitVec 50 :=
  t.dstFlag.code ++ t.minute ++ t.hour ++ t.dayOfMonth ++ t.weekday ++ t.month ++ t.year

/-- A frame from its bits in index order (R62); a missing bit is 0. -/
def frameOfBits (bs : List Bool) : Frame := packBits (fun i => bs.getD i false) 59

/-- The characters of a frame, index 0 leftmost (R62, R105). -/
def frameChars (b : Frame) : List Char :=
  (frameBits b 0 59).map fun x => if x then '1' else '0'

/-- A frame from its 59 characters (R62, R105); no value for another length or another character. -/
def frameOfChars (cs : List Char) : Option Frame :=
  if cs.length = 59 ∧ cs.all (fun c => decide (c = '0') || decide (c = '1')) = true then
    some (frameOfBits (cs.map fun c => decide (c = '1')))
  else none

end Sys2Proof.Machine
end

