-- ==== Sys2Proof/Machine/TelegramEncoder.lean ====
section
/-! DEFINITION. The telegram encoder of 44_bcd_assembler.md R194. "The encoder is not part of the hardware": it is the
inverse that the round-trip property needs, and no meaning calls it. -/

namespace Sys2Proof.Machine

/-- The values an encoded telegram carries. -/
structure TelegramValues where
  minute     : Nat
  hour       : Nat
  dayOfMonth : Nat
  weekday    : Nat
  month      : Nat
  year       : Nat
  deriving DecidableEq, Repr

/-- Bit `i` of the BCD field of `v`: the units digit's four bits, then the tens digit's, least significant first. -/
def bcdFieldBit (v i : Nat) : Bool :=
  if i < 4 then (v % 10).testBit i else (v / 10).testBit (i - 4)

/-- `v` fits a BCD field of `count` bits: its digits do. -/
def fitsBcd (count v : Nat) : Bool :=
  if count ≤ 4 then decide (v < 10) && decide (v < 2 ^ count) else decide (v / 10 < 2 ^ (count - 4))

/-- Every value fits its field. -/
def TelegramValues.fits (v : TelegramValues) : Bool :=
  fitsBcd 7 v.minute && fitsBcd 6 v.hour && fitsBcd 6 v.dayOfMonth && fitsBcd 3 v.weekday && fitsBcd 5 v.month &&
    fitsBcd 8 v.year

/-- The frame before its parity bits are set: bits `[0,21)` from `head`, then the six fields. -/
def dataBit (head : Frame) (v : TelegramValues) (i : Nat) : Bool :=
  if i < 21 then head.getLsbD i
  else if i < 28 then bcdFieldBit v.minute (i - 21)
  else if i = 28 then false
  else if i < 35 then bcdFieldBit v.hour (i - 29)
  else if i = 35 then false
  else if i < 42 then bcdFieldBit v.dayOfMonth (i - 36)
  else if i < 45 then bcdFieldBit v.weekday (i - 42)
  else if i < 50 then bcdFieldBit v.month (i - 45)
  else if i < 58 then bcdFieldBit v.year (i - 50)
  else false

/-- The encoded telegram: each group's parity bit makes the group's sum even. -/
def encodeTelegram (head : Frame) (v : TelegramValues) : Frame :=
  let d := packBits (dataBit head v) 59
  packBits (fun i =>
    if i = 28 then groupParity d 21 28 == 1
    else if i = 35 then groupParity d 29 35 == 1
    else if i = 58 then groupParity d 36 58 == 1
    else d.getLsbD i) 59

end Sys2Proof.Machine
end

