-- ==== Sys2Proof/Safety.lean ====
section
/-! DEFINITION. What holds of every state the block can reach (10_state.md R34, R38), which states those are, and what
the environment owes (40_edge_classifier.md R121, 45_system_ops.md R209). -/

namespace Sys2Proof.Machine

/-- The reachable ranges of the Telegram's fields, the largest sums of 44_bcd_assembler.md R182. -/
structure Telegram.InRange (t : Telegram) : Prop where
  minute     : t.minute.toNat ≤ 85
  hour       : t.hour.toNat ≤ 45
  dayOfMonth : t.dayOfMonth.toNat ≤ 45
  weekday    : t.weekday.toNat ≤ 7
  month      : t.month.toNat ≤ 25
  year       : t.year.toNat ≤ 165

/-- The invariant of the block. -/
structure State.Inv (s : State) : Prop where
  /-- The buffer's list is in its canonical form. -/
  canonical       : Memory.wf s.buf = true
  /-- R34 item 1. -/
  indexBound      : s.secondIndex.toNat ≤ 59
  /-- R34 item 2: the filled slots form a contiguous prefix. -/
  filledPrefix    : ∀ i, i < 59 → (Memory.read s.buf i ≠ .unset ↔ i < s.secondIndex.toNat)
  /-- R34 item 3. -/
  acquiringEmpty  : s.synchronized = false → s.secondIndex = 0 ∧ ∀ i, i < 59 → Memory.read s.buf i = .unset
  /-- A fresh telegram is there to be read (R38, R39). -/
  freshHasValue   : s.telegramFresh = true → s.tg.isSome = true
  /-- R38: the fields hold sums that `Bcd` can give. -/
  telegramInRange : ∀ t, s.tg = some t → t.InRange
  /-- A poll under way has an unacknowledged edge (R42, R43). -/
  busyHasEdge     : s.pollBusy = true → s.edgePending = true

/-- A step ends in a next state: neither a fault nor a refusal. -/
def Completes (o : Host.Outcome State Fault Refusal) : Prop := ∃ t, o = .next t

/-- The states that can occur: reset under any configuration, then steps, presented words and host writes to `cal`,
in any order (00_scope.md R6; 10_state.md R40). -/
inductive Reachable : State → Prop
  | reset (c : Config) : Reachable (State.resetWith c)
  | step (s t : State) : Reachable s → step s = .next t → Reachable t
  | present (s : State) (ws : List PortWord) : Reachable s → Reachable (s.present ws)
  | hostWriteCal (s : State) (c : Calendar) : Reachable s → Reachable (s.hostWriteCal c)

/-- The errors (a), (b), (d) of 60_exceptions.md R226; (c) is raised by no step. -/
def Label.isError : Label → Bool
  | .unrecognizedWidth _ => true
  | .parityFailure _ _ _ => true
  | .overrun _ _         => true
  | _                    => false

/-- R121, owed by the environment: one clock value does not come before another, modulo `2^32`. -/
def clockOrdered (t1 t2 : U32) : Bool := decide ((sub32 t2 t1).toNat < 2 ^ 31)

/-- R209, owed by the polling loop: it alternates `POLL.BEGIN` and `POLL.END`. No meaning assumes it. -/
def pollLoopObeys (s : State) : Instr → Bool
  | .pollBegin _ => !s.pollBusy
  | .pollEnd     => s.pollBusy
  | _            => true

/-- The `EDGE` operation that an operation performs, as its level and its timestamp: its own, or the one
`POLL.BEGIN` takes from the mailbox (45_system_ops.md R207, R210). -/
def State.edgeOf (s : State) : Instr → Option (Bool × U32)
  | .edgeRise now  => some (true, now)
  | .edgeFall now  => some (false, now)
  | .pollBegin now => if s.pollBusy = false ∧ s.edgePending = true then some (s.edgeLevel, now) else none
  | _              => none

/-- The gap that an operation measures: it performs an `EDGE.RISE` and `tFall` is valid. -/
def State.gapMeasured (s : State) (i : Instr) : Option U32 :=
  match s.edgeOf i, s.tFall with
  | some (true, now), some f => some (sub32 now f)
  | _, _                     => none

/-- The pulse that an operation measures: it performs an `EDGE.FALL` and `tRise` is valid. -/
def State.pulseMeasured (s : State) (i : Instr) : Option U32 :=
  match s.edgeOf i, s.tRise with
  | some (false, now), some r => some (sub32 now r)
  | _, _                      => none

/-- The table of phase transitions (41_synchronizer.md R150); a case not listed leaves the phase unchanged. -/
def State.phaseAfter (s : State) (i : Instr) : Phase :=
  match i, s.gapMeasured i, s.pulseMeasured i, s.phase with
  | .reset, _, _, _                  => .acquiring
  | _, some g, _, p                  => if isSyncGap s.cfg g then .synchronizing 0 else p
  | _, _, some w, .synchronizing k   =>
      if classify s.cfg w = .unrecognized then .synchronizing k
      else if k = 58 then .complete else .synchronizing (k + 1)
  | _, _, _, p                       => p

end Sys2Proof.Machine
end

