-- ==== Sys2Proof/Certificates/Slice0/Obligations.lean ====
section
/-! DEFINITION. The statements about the model, for the provers. Each docstring names the rules of spec/ it rests on;
where a clause is the model's own choice it says so and names the log entry. -/

open Sys2Proof Sys2Proof.Machine

/-! ### Words and their decoding -/

/-- Words written out from 30_encoding.md R91, R97 and R103 (`R 1000` is `0x1000003E8`, `F 1100` is `0x00000044C`)
decode to the operations they stand for. -/
def Obligations.SpecWordsDecode : Prop :=
  decode (.edge 0x1000003E8#33) = .ok (.edgeRise 1000#32) ∧
  decode (.edge 0x00000044C#33) = .ok (.edgeFall 1100#32) ∧
  decode (.edge 0x1FFFFF254#33) = .ok (.edgeRise 4294963796#32) ∧
  decode (.edge 0x0FFFFF2B8#33) = .ok (.edgeFall 4294963896#32) ∧
  decode (.take 1#1) = .ok .take ∧
  decode (.reset 1#1) = .ok .reset ∧
  decode (.capture 1#1) = .ok (.capture true) ∧
  decode (.capture 0#1) = .ok (.capture false) ∧
  decode (.pollBegin 0x00001388#32) = .ok (.pollBegin 5000#32) ∧
  decode (.pollEnd 1#1) = .ok .pollEnd ∧
  decode (.frame 5#59) = .ok (.telegram 5#59)

/-- R100: every `EV33` word is an operation; bit 32 selects it, the low 32 bits are the timestamp. -/
def Obligations.EdgeWordDecodingIsTotal : Prop :=
  ∀ w : BitVec 33, ∃ t : U32, t.toNat = w.toNat % 2 ^ 32 ∧
    decode (.edge w) = .ok (if 2 ^ 32 ≤ w.toNat then .edgeRise t else .edgeFall t)

/-- Decoding and encoding agree, both ways: a presented word decodes to an operation exactly when it is that
operation's encoding. So no operand bit is dropped and no word has two meanings (R91, R95, R97, R100). -/
def Obligations.DecodeAndEncodeAgree : Prop :=
  ∀ (p : PortWord) (i : Instr), decode p = .ok i ↔ p = encode i

/-- R97: the only presented words that are no operation are the three strobes at 0. -/
def Obligations.OnlyIdleStrobesAreRejected : Prop :=
  ∀ p : PortWord, (∃ e, decode p = .error e) ↔ p = .take 0#1 ∨ p = .reset 0#1 ∨ p = .pollEnd 0#1

/-- The table word of an operation reads as that operation. The one-bit rows share their words: a 1 reads as `TAKE`,
which for `RESET`, `POLL.END` and `CAPTURE 1` is the model's choice (log entry 11). So is the packing of a frame into the
table word's number (log entry 10). -/
def Obligations.TableWordsReadBack : Prop :=
  ∀ i : Instr, decodeTableWord (encode i).toTable.1 (encode i).toTable.2 =
    some (if i = .reset ∨ i = .pollEnd ∨ i = .capture true then .take else i)

/-- R92: the code of a symbol reads back, and the reserved code `01` is the code of none. -/
def Obligations.SymbolCodesReadBack : Prop :=
  (∀ (w : BitVec 2) (c : Symbol), symbolOfCode w = some c ↔ w = c.code) ∧
  symbolOfCode 0b01#2 = none ∧ Symbol.unset.code = 0b00#2 ∧ Symbol.zero.code = 0b10#2 ∧ Symbol.one.code = 0b11#2

/-! ### The step -/

/-- A step performs the operation its presented word decodes to, on the state without that word. That the operations
come from `State.input` is the model's choice (log entry 1). -/
def Obligations.StepPerformsTheDecodedOperation : Prop :=
  ∀ (s : State) (p : PortWord) (rest : List PortWord) (i : Instr),
    s.input = p :: rest → decode p = .ok i → step s = exec i { s with input := rest }

/-- With nothing presented, or only a word that is no operation, a step changes no register and drives no output
(R45, R261, R276). That it is a step at all is the model's choice (log entry 2). -/
def Obligations.StepWithoutAnOperationChangesNoRegister : Prop :=
  (∀ s : State, s.input = [] → step s = .next { s with out := {}, outcome := [] }) ∧
  (∀ (s : State) (p : PortWord) (rest : List PortWord) (e : DecodeReject), s.input = p :: rest → decode p = .error e →
    step s = .next { s with input := rest, out := {}, outcome := [] })

/-- Nothing is fatal (R220): every operation and every step ends in a next state, whatever the state. -/
def Obligations.NothingIsFatal : Prop :=
  (∀ (i : Instr) (s : State), Completes (exec i s)) ∧ ∀ s : State, Completes (step s)

/-! ### Widths and windows -/

/-- R122: the width arithmetic, case by case, and the rule's worked example. -/
def Obligations.WidthIsTheModularDifference : Prop :=
  (∀ now earlier : U32,
    (sub32 now earlier).toNat = (2 ^ 32 + now.toNat - earlier.toNat) % 2 ^ 32 ∧
    (now = earlier → (sub32 now earlier).toNat = 0) ∧
    (earlier.toNat < now.toNat → (sub32 now earlier).toNat = now.toNat - earlier.toNat) ∧
    (now.toNat < earlier.toNat → (sub32 now earlier).toNat = 2 ^ 32 - (earlier.toNat - now.toNat))) ∧
  sub32 0x00000024#32 0xFFFFFFC0#32 = 0x64#32

/-- R126 (with R125, R127): the two windows under any configuration, the zero window first; under the defaults 65..135
and 165..235. -/
def Obligations.ClassifyFollowsTheWindows : Prop :=
  (∀ (c : Config) (w : U32),
    (classify c w = .zero ↔ (c.p0 : Int) - c.jitter ≤ w.toNat ∧ (w.toNat : Int) ≤ c.p0 + c.jitter) ∧
    (classify c w = .one ↔ ¬ ((c.p0 : Int) - c.jitter ≤ w.toNat ∧ (w.toNat : Int) ≤ c.p0 + c.jitter) ∧
      (c.p1 : Int) - c.jitter ≤ w.toNat ∧ (w.toNat : Int) ≤ c.p1 + c.jitter)) ∧
  (∀ w : U32,
    (classify Config.default w = .zero ↔ 65 ≤ w.toNat ∧ w.toNat ≤ 135) ∧
    (classify Config.default w = .one ↔ 165 ≤ w.toNat ∧ w.toNat ≤ 235))

/-- R141: the sync window under any configuration; under the defaults 1765..1935. -/
def Obligations.SyncGapFollowsTheWindow : Prop :=
  (∀ (c : Config) (g : U32), isSyncGap c g = true ↔
    (c.minSyncGap : Int) - c.jitter ≤ g.toNat ∧ (g.toNat : Int) ≤ c.maxSyncGap + c.jitter) ∧
  (∀ g : U32, isSyncGap Config.default g = true ↔ 1765 ≤ g.toNat ∧ g.toNat ≤ 1935)

/-- R133, R272: a pulse of nominal width whose two edges are consumed with poll latencies `d1` and `d2` is classified
right when the latencies differ by no more than `JITTER`, across a wrap of the clock too. The bounds on the
configuration keep the windows inside the 32-bit range. -/
def Obligations.JitterAbsorbsThePollLatency : Prop :=
  ∀ (c : Config) (e d1 d2 : U32), c.wf = true → c.jitter ≤ c.p0 → c.p1 + c.jitter < 2 ^ 32 →
    d1.toNat ≤ d2.toNat + c.jitter → d2.toNat ≤ d1.toNat + c.jitter →
    classify c (sub32 (e + BitVec.ofNat 32 c.p0 + d2) (e + d1)) = .zero ∧
    classify c (sub32 (e + BitVec.ofNat 32 c.p1 + d2) (e + d1)) = .one

/-! ### `EDGE.RISE` -/

/-- R146: a rising edge whose gap lies in the sync window. All five actions, in every phase, and nothing else but
`tRise`; the outputs and the label of the step as the rules give them. -/
def Obligations.RisingEdgeOnSyncGapStartsTheMinute : Prop :=
  ∀ (s : State) (now f : U32), s.tFall = some f →
    (s.cfg.minSyncGap : Int) - s.cfg.jitter ≤ (sub32 now f).toNat →
    ((sub32 now f).toNat : Int) ≤ s.cfg.maxSyncGap + s.cfg.jitter →
    exec (.edgeRise now) s = .next
      { s with
        tRise        := some now
        synchronized := true
        secondIndex  := 0
        buf          := []
        cal          := { s.cal with second := 0 }
        out          := { minuteBoundary := true, telegramStrobe := false, tap := .none }
        outcome      := [.syncDetected (sub32 now f)] }

/-- R147: a rising edge whose gap lies outside the sync window records its timestamp and changes nothing else. -/
def Obligations.RisingEdgeOnOrdinaryGapChangesOnlyItsTimestamp : Prop :=
  ∀ (s : State) (now f : U32), s.tFall = some f →
    ((sub32 now f).toNat < (s.cfg.minSyncGap : Int) - s.cfg.jitter ∨
      (s.cfg.maxSyncGap : Int) + s.cfg.jitter < (sub32 now f).toNat) →
    exec (.edgeRise now) s = .next
      { s with tRise := some now, out := {}, outcome := [.noSync (sub32 now f)] }

/-- R131: while the complementary timestamp is not valid an edge makes no measurement and records only its own
timestamp; the valid bits stay 1 until `RESET`. -/
def Obligations.FirstEdgesOnlyRecordTheirTimestamp : Prop :=
  (∀ (s : State) (now : U32), s.tFallValid = false →
    exec (.edgeRise now) s = .next { s with tRise := some now, out := {}, outcome := [.noMeasurement] }) ∧
  (∀ (s : State) (now : U32), s.tRiseValid = false →
    exec (.edgeFall now) s = .next { s with tFall := some now, out := {}, outcome := [.noMeasurement] }) ∧
  (∀ (s t : State) (now : U32), exec (.edgeRise now) s = .next t → t.tRiseValid = true) ∧
  (∀ (s t : State) (now : U32), exec (.edgeFall now) s = .next t → t.tFallValid = true) ∧
  (∀ (i : Instr) (s t : State), i ≠ .reset → exec i s = .next t →
    (s.tRiseValid = true → t.tRiseValid = true) ∧ (s.tFallValid = true → t.tFallValid = true))

/-- R128, the frame of a rising edge: what it never writes, and that the buffer is cleared or untouched. -/
def Obligations.RisingEdgeFrame : Prop :=
  ∀ (s t : State) (now : U32), exec (.edgeRise now) s = .next t →
    t.tRise = some now ∧ t.tFall = s.tFall ∧ t.indicator = s.indicator ∧ t.tg = s.tg ∧
    t.telegramFresh = s.telegramFresh ∧ t.edgeLevel = s.edgeLevel ∧ t.edgePending = s.edgePending ∧
    t.pollBusy = s.pollBusy ∧ t.cfg = s.cfg ∧ t.input = s.input ∧ t.freeUses = s.freeUses ∧
    { t.cal with second := s.cal.second } = s.cal ∧ t.out.telegramStrobe = false ∧ t.out.tap = .none ∧
    ((∀ a, Memory.read t.buf a = .unset) ∧ t.out.minuteBoundary = true ∨
     (∀ a, Memory.read t.buf a = Memory.read s.buf a) ∧ t.synchronized = s.synchronized ∧
       t.secondIndex = s.secondIndex ∧ t.cal = s.cal ∧ t.out.minuteBoundary = false)

/-! ### `EDGE.FALL` -/

/-- R222: a pulse in neither window is discarded in any phase: no bit, no counter advance, no output. -/
def Obligations.UnrecognizedPulseIsDropped : Prop :=
  ∀ (s : State) (now r : U32), s.tRise = some r → classify s.cfg (sub32 now r) = .unrecognized →
    exec (.edgeFall now) s = .next
      { s with tFall := some now, out := {}, outcome := [.unrecognizedWidth (sub32 now r)] }

/-- R156: while acquiring, a recognized pulse is echoed as `'*'` and not stored. -/
def Obligations.RecognizedPulseWhileAcquiringIsOnlyEchoed : Prop :=
  ∀ (s : State) (now r : U32) (bit : Bool), s.tRise = some r →
    classify s.cfg (sub32 now r) = PulseClass.ofBit bit → s.synchronized = false →
    exec (.edgeFall now) s = .next
      { s with
        tFall   := some now
        out     := { minuteBoundary := false, telegramStrobe := false, tap := .star }
        outcome := [.acquiringEcho (sub32 now r) bit] }

/-- R157, R225: a recognized pulse with `secondIndex >= 59` is an overrun: the bit is discarded and nothing else
happens. -/
def Obligations.OverrunDiscardsTheBit : Prop :=
  ∀ (s : State) (now r : U32) (bit : Bool), s.tRise = some r →
    classify s.cfg (sub32 now r) = PulseClass.ofBit bit → s.synchronized = true → 59 ≤ s.secondIndex.toNat →
    exec (.edgeFall now) s = .next
      { s with tFall := some now, out := {}, outcome := [.overrun (sub32 now r) bit] }

/-- R158, below the last slot: the bit goes to slot `secondIndex`, every other slot reads as before, the index
advances by one, the indicator toggles, the tap shows the bit. -/
def Obligations.RecognizedPulseStoresOneBit : Prop :=
  ∀ (s : State) (now r : U32) (bit : Bool), s.tRise = some r →
    classify s.cfg (sub32 now r) = PulseClass.ofBit bit → s.synchronized = true → s.secondIndex.toNat ≤ 57 →
    ∃ m : Memory,
      exec (.edgeFall now) s = .next
        { s with
          tFall       := some now
          buf         := m
          secondIndex := BitVec.ofNat 8 (s.secondIndex.toNat + 1)
          indicator   := !s.indicator
          out         := { minuteBoundary := false, telegramStrobe := false, tap := if bit then .char1 else .char0 }
          outcome     := [.bitStored s.secondIndex.toNat bit] } ∧
      Memory.read m s.secondIndex.toNat = (if bit then .one else .zero) ∧
      ∀ a, a ≠ s.secondIndex.toNat → Memory.read m a = Memory.read s.buf a

/-- R159, R188, R190: the pulse that fills slot 58 of a buffer whose frame passes the parity check assembles the
Telegram in the same step: seven fields in `tg`, the record with the seconds forced to 0, the fresh flag, the strobe. -/
def Obligations.LastBitAssemblesTheTelegram : Prop :=
  ∀ (s : State) (now r : U32) (b : Frame), s.tRise = some r →
    classify s.cfg (sub32 now r) = PulseClass.ofBit (b.getLsbD 58) → s.synchronized = true →
    s.secondIndex.toNat = 58 →
    (∀ i, i < 58 → Memory.read s.buf i = if b.getLsbD i then .one else .zero) →
    parityOK s.cfg.parityMode b = true →
    ∃ m : Memory,
      exec (.edgeFall now) s = .next
        { s with
          tFall         := some now
          buf           := m
          secondIndex   := 59
          indicator     := !s.indicator
          tg            := some
            { dstFlag    := dstOf (bcd b 17 2)
              minute     := BitVec.ofNat 8 (bcd b 21 7)
              hour       := BitVec.ofNat 8 (bcd b 29 6)
              dayOfMonth := BitVec.ofNat 8 (bcd b 36 6)
              weekday    := BitVec.ofNat 8 (bcd b 42 3)
              month      := BitVec.ofNat 8 (bcd b 45 5)
              year       := BitVec.ofNat 8 (bcd b 50 8) }
          telegramFresh := true
          cal           :=
            { second     := 0
              minute     := BitVec.ofNat 8 (bcd b 21 7)
              hour       := BitVec.ofNat 8 (bcd b 29 6)
              dayOfMonth := BitVec.ofNat 8 (bcd b 36 6)
              weekday    := BitVec.ofNat 8 (bcd b 42 3)
              month      := BitVec.ofNat 8 (bcd b 45 5)
              year       := BitVec.ofNat 8 (bcd b 50 8)
              dstFlag    := dstOf (bcd b 17 2) }
          out           :=
            { minuteBoundary := false, telegramStrobe := true, tap := if b.getLsbD 58 then .char1 else .char0 }
          outcome       := [.bitStored 58 (b.getLsbD 58), .telegramAssembled] } ∧
      Memory.read m 58 = (if b.getLsbD 58 then .one else .zero) ∧
      ∀ a, a ≠ 58 → Memory.read m a = Memory.read s.buf a

/-- R223, R192: where the frame fails the parity check, the bit is stored, the three group results are signalled, and
`tg`, `telegramFresh` and `cal` keep their values. -/
def Obligations.ParityFailureKeepsTheOldTelegram : Prop :=
  ∀ (s : State) (now r : U32) (b : Frame), s.tRise = some r →
    classify s.cfg (sub32 now r) = PulseClass.ofBit (b.getLsbD 58) → s.synchronized = true →
    s.secondIndex.toNat = 58 →
    (∀ i, i < 58 → Memory.read s.buf i = if b.getLsbD i then .one else .zero) →
    parityOK s.cfg.parityMode b = false →
    ∃ m : Memory,
      exec (.edgeFall now) s = .next
        { s with
          tFall       := some now
          buf         := m
          secondIndex := 59
          indicator   := !s.indicator
          out         :=
            { minuteBoundary := false, telegramStrobe := false, tap := if b.getLsbD 58 then .char1 else .char0 }
          outcome     := [.bitStored 58 (b.getLsbD 58), .parityFailure (okMinutes b) (okHours b) (okDate b)] } ∧
      Memory.read m 58 = (if b.getLsbD 58 then .one else .zero) ∧
      ∀ a, a ≠ 58 → Memory.read m a = Memory.read s.buf a

/-- R65: `ToBits` answers exactly on a full buffer, with `b[i] = bit(buf[i])`; and, from the invariant (R34), it answers
whenever `secondIndex = 59`, every slot then reading the symbol of its bit. -/
def Obligations.ToBitsAnswersAtIndex59 : Prop :=
  (∀ (m : Memory) (b : Frame), Memory.toBits m = some b ↔
    ∀ i, i < 59 → (Memory.read m i).bit = some (b.getLsbD i)) ∧
  (∀ m : Memory, Memory.toBits m = none ↔ ∃ i, i < 59 ∧ Memory.read m i = .unset) ∧
  (∀ s : State, s.Inv → s.secondIndex = 59 →
    ∃ b, Memory.toBits s.buf = some b ∧ ∀ i, i < 59 → Memory.read s.buf i = Symbol.ofBit (b.getLsbD i))

/-- R129, the frame of a falling edge: what it never writes, and that no slot but `secondIndex` changes. -/
def Obligations.FallingEdgeFrame : Prop :=
  ∀ (s t : State) (now : U32), exec (.edgeFall now) s = .next t →
    t.tFall = some now ∧ t.tRise = s.tRise ∧ t.synchronized = s.synchronized ∧ t.edgeLevel = s.edgeLevel ∧
    t.edgePending = s.edgePending ∧ t.pollBusy = s.pollBusy ∧ t.cfg = s.cfg ∧ t.input = s.input ∧
    t.freeUses = s.freeUses ∧ t.out.minuteBoundary = false ∧
    (t.out.telegramStrobe = false → t.tg = s.tg ∧ t.telegramFresh = s.telegramFresh ∧ t.cal = s.cal) ∧
    (∀ a, a ≠ s.secondIndex.toNat → Memory.read t.buf a = Memory.read s.buf a)

/-- R158, corner case: in a state that meets the invariant no filled slot is ever overwritten by a falling edge. -/
def Obligations.NoFilledSlotIsOverwritten : Prop :=
  ∀ (s t : State) (now : U32) (a : Nat), s.Inv → exec (.edgeFall now) s = .next t →
    Memory.read s.buf a ≠ .unset → Memory.read t.buf a = Memory.read s.buf a

/-! ### `TELEGRAM`: parity and BCD -/

/-- R180, R188, R190, R192: the frame is assembled where the buffer is full of exactly its bits and the parity check
passes; otherwise the assembler is not invoked, nothing is written and no error is raised (R226). That the frame may be
presented as an operation, and that a step without the assembler carries no label, are the model's choices (log entries 9
and 23). -/
def Obligations.TelegramOperationAssemblesOrRejects : Prop :=
  ∀ (s : State) (b : Frame),
    ((∀ i, i < 59 → Memory.read s.buf i = if b.getLsbD i then .one else .zero) → parityOK s.cfg.parityMode b = true →
      exec (.telegram b) s = .next
      { s with
        tg            := some (telegramOf b)
        telegramFresh := true
        cal           :=
          { second := 0, minute := (telegramOf b).minute, hour := (telegramOf b).hour,
            dayOfMonth := (telegramOf b).dayOfMonth, weekday := (telegramOf b).weekday,
            month := (telegramOf b).month, year := (telegramOf b).year, dstFlag := (telegramOf b).dstFlag }
        out           := { minuteBoundary := false, telegramStrobe := true, tap := .none }
        outcome       := [.telegramAssembled] }) ∧
    ((∃ i, i < 59 ∧ Memory.read s.buf i ≠ if b.getLsbD i then .one else .zero) ∨
        parityOK s.cfg.parityMode b = false →
      exec (.telegram b) s = .next { s with out := {}, outcome := [] })

/-- R181, R183, R66: each field is the weighted sum of its bits, lowest index first. -/
def Obligations.FieldsAreTheWeightedSums : Prop :=
  ∀ b : Frame,
    let v := fun i : Nat => (b.getLsbD i).toNat
    (fieldsOf b).dstRaw = v 17 + 2 * v 18 ∧
    (fieldsOf b).minute = v 21 + 2 * v 22 + 4 * v 23 + 8 * v 24 + 10 * v 25 + 20 * v 26 + 40 * v 27 ∧
    (fieldsOf b).hour = v 29 + 2 * v 30 + 4 * v 31 + 8 * v 32 + 10 * v 33 + 20 * v 34 ∧
    (fieldsOf b).dayOfMonth = v 36 + 2 * v 37 + 4 * v 38 + 8 * v 39 + 10 * v 40 + 20 * v 41 ∧
    (fieldsOf b).weekday = v 42 + 2 * v 43 + 4 * v 44 ∧
    (fieldsOf b).month = v 45 + 2 * v 46 + 4 * v 47 + 8 * v 48 + 10 * v 49 ∧
    (fieldsOf b).year =
      v 50 + 2 * v 51 + 4 * v 52 + 8 * v 53 + 10 * v 54 + 20 * v 55 + 40 * v 56 + 80 * v 57

/-- R181, R182: the Telegram holds every raw sum exactly (no overflow of a `u8`), unchecked, within the largest values
of R182, each of which the frame of 59 ones attains. -/
def Obligations.TelegramHoldsTheSumsWithoutOverflow : Prop :=
  (∀ b : Frame,
    (telegramOf b).minute.toNat = (fieldsOf b).minute ∧ (fieldsOf b).minute ≤ 85 ∧
    (telegramOf b).hour.toNat = (fieldsOf b).hour ∧ (fieldsOf b).hour ≤ 45 ∧
    (telegramOf b).dayOfMonth.toNat = (fieldsOf b).dayOfMonth ∧ (fieldsOf b).dayOfMonth ≤ 45 ∧
    (telegramOf b).weekday.toNat = (fieldsOf b).weekday ∧ (fieldsOf b).weekday ≤ 7 ∧
    (telegramOf b).month.toNat = (fieldsOf b).month ∧ (fieldsOf b).month ≤ 25 ∧
    (telegramOf b).year.toNat = (fieldsOf b).year ∧ (fieldsOf b).year ≤ 165 ∧ (fieldsOf b).dstRaw ≤ 3) ∧
  fieldsOf (BitVec.allOnes 59) =
    { dstRaw := 3, minute := 85, hour := 45, dayOfMonth := 45, weekday := 7, month := 25, year := 165 }

/-- R184: the DST flag by value and by its two bits. -/
def Obligations.DstFlagFollowsItsTwoBits : Prop :=
  dstOf 2 = .standard ∧ dstOf 1 = .daylight ∧ dstOf 0 = .unknown ∧ dstOf 3 = .unknown ∧
  ∀ b : Frame, (telegramOf b).dstFlag =
    match b.getLsbD 17, b.getLsbD 18 with
    | false, true  => .standard
    | true, false  => .daylight
    | false, false => .unknown
    | true, true   => .unknown

/-- R172 (with R171): each group check is evenness of the number of 1 bits in the group's range. -/
def Obligations.GroupParityIsEvenness : Prop :=
  ∀ b : Frame,
    (okMinutes b = true ↔ Even ((Finset.Ico 21 29).filter fun i => b.getLsbD i = true).card) ∧
    (okHours b = true ↔ Even ((Finset.Ico 29 36).filter fun i => b.getLsbD i = true).card) ∧
    (okDate b = true ↔ Even ((Finset.Ico 36 59).filter fun i => b.getLsbD i = true).card)

/-- R173, R174: what each mode accepts; the default mode is `PerField`. -/
def Obligations.ParityModesAccept : Prop :=
  (∀ b : Frame,
    (parityOK .perField b = true ↔ okMinutes b = true ∧ okHours b = true ∧ okDate b = true) ∧
    (parityOK .combinedLegacy b = true ↔ Even ((Finset.Ico 21 59).filter fun i => b.getLsbD i = true).card)) ∧
  State.reset.cfg.parityMode = .perField

/-- R175 item 1: per-field success implies combined success, and the converse fails: flipping bits 21 and 29 of a
telegram that passes gives (false, false, true), which only the legacy check accepts. -/
def Obligations.PerFieldIsStricterThanCombined : Prop :=
  ∀ b : Frame, parityOK .perField b = true →
    parityOK .combinedLegacy b = true ∧
    okMinutes (b ^^^ (1#59 <<< 21) ^^^ (1#59 <<< 29)) = false ∧
    okHours (b ^^^ (1#59 <<< 21) ^^^ (1#59 <<< 29)) = false ∧
    okDate (b ^^^ (1#59 <<< 21) ^^^ (1#59 <<< 29)) = true ∧
    parityOK .perField (b ^^^ (1#59 <<< 21) ^^^ (1#59 <<< 29)) = false ∧
    parityOK .combinedLegacy (b ^^^ (1#59 <<< 21) ^^^ (1#59 <<< 29)) = true

/-- R175 item 2: flipping one bit at any index in `[21,59)` of a telegram that passes makes it fail, in both modes,
and exactly the group that holds the index changes its result. -/
def Obligations.SingleFlipIsRejected : Prop :=
  ∀ (mode : ParityMode) (b : Frame) (k : Nat), 21 ≤ k → k < 59 →
    (parityOK mode b = true → parityOK mode (b ^^^ (1#59 <<< k)) = false) ∧
    (okMinutes (b ^^^ (1#59 <<< k)) = if k < 29 then !okMinutes b else okMinutes b) ∧
    (okHours (b ^^^ (1#59 <<< k)) = if 29 ≤ k ∧ k < 36 then !okHours b else okHours b) ∧
    (okDate (b ^^^ (1#59 <<< k)) = if 36 ≤ k then !okDate b else okDate b)

/-- R175 items 3 and 4: a flip in `[0,21)` changes no parity result, and an even number of flips inside one group
changes none; `m` is the mask of the flipped bits. -/
def Obligations.UndetectedFlips : Prop :=
  (∀ (mode : ParityMode) (b : Frame) (k : Nat), k < 21 →
    okMinutes (b ^^^ (1#59 <<< k)) = okMinutes b ∧ okHours (b ^^^ (1#59 <<< k)) = okHours b ∧
    okDate (b ^^^ (1#59 <<< k)) = okDate b ∧ parityOK mode (b ^^^ (1#59 <<< k)) = parityOK mode b) ∧
  (∀ (mode : ParityMode) (b m : Frame) (lo hi : Nat), (lo, hi) ∈ [(21, 29), (29, 36), (36, 59)] →
    (∀ i, m.getLsbD i = true → lo ≤ i ∧ i < hi) → Even ((Finset.Ico lo hi).filter fun i => m.getLsbD i = true).card →
    okMinutes (b ^^^ m) = okMinutes b ∧ okHours (b ^^^ m) = okHours b ∧ okDate (b ^^^ m) = okDate b ∧
    parityOK mode (b ^^^ m) = parityOK mode b)

/-- R67: the bits `[0,17)` and `[19,21)` enter neither a field nor a parity group: frames that agree elsewhere decode
alike. -/
def Obligations.UnassignedBitsAreIgnored : Prop :=
  ∀ (mode : ParityMode) (b b' : Frame),
    (∀ i, (17 ≤ i ∧ i < 19 ∨ 21 ≤ i ∧ i < 59) → b.getLsbD i = b'.getLsbD i) →
    telegramOf b = telegramOf b' ∧ parityOK mode b = parityOK mode b'

/-- R194: the round trip. The encoder's frame of any values whose digits fit their fields, under any bits `[0,21)`,
passes every group check, and the falling edge that brings its last bit recovers exactly those values and the DST flag
of bits 17 and 18, in both parity modes. -/
def Obligations.EncodedTelegramIsRecovered : Prop :=
  ∀ (s : State) (now r : U32) (head : Frame) (v : TelegramValues), v.fits = true → s.tRise = some r →
    classify s.cfg (sub32 now r) = PulseClass.ofBit ((encodeTelegram head v).getLsbD 58) → s.synchronized = true →
    s.secondIndex.toNat = 58 →
    (∀ i, i < 58 → Memory.read s.buf i = if (encodeTelegram head v).getLsbD i then .one else .zero) →
    ∃ t g, exec (.edgeFall now) s = .next t ∧ t.tg = some g ∧ t.telegramFresh = true ∧
      g.minute.toNat = v.minute ∧ g.hour.toNat = v.hour ∧ g.dayOfMonth.toNat = v.dayOfMonth ∧
      g.weekday.toNat = v.weekday ∧ g.month.toNat = v.month ∧ g.year.toNat = v.year ∧
      g.dstFlag = dstOf ((head.getLsbD 17).toNat + 2 * (head.getLsbD 18).toNat) ∧
      (∀ i, i < 21 → (encodeTelegram head v).getLsbD i = head.getLsbD i) ∧
      okMinutes (encodeTelegram head v) = true ∧ okHours (encodeTelegram head v) = true ∧
      okDate (encodeTelegram head v) = true

/-- R81: decoding is a function of the buffer alone: two falling edges that assemble a Telegram and leave the same
buffer leave the same Telegram and the same record, whatever else differs; the seconds are 0 both times. -/
def Obligations.DecodingDependsOnTheBufferAlone : Prop :=
  ∀ (s s' t t' : State) (now now' : U32), exec (.edgeFall now) s = .next t → exec (.edgeFall now') s' = .next t' →
    t.out.telegramStrobe = true → t'.out.telegramStrobe = true →
    (∀ a, a < 59 → Memory.read t.buf a = Memory.read t'.buf a) → t.tg = t'.tg ∧ t.cal = t'.cal ∧ t.cal.second = 0 ∧ t'.cal.second = 0

/-! ### `TAKE` and `RESET` -/

/-- R203: `TAKE` clears the fresh flag and writes nothing else. -/
def Obligations.TakeClearsOnlyTheFreshFlag : Prop :=
  ∀ s : State, exec .take s = .next { s with telegramFresh := false, out := {}, outcome := [.taken] }

/-- R201: what `RESET` leaves, from any state. `edgeLevel` is unspecified afterwards: the statement holds for whatever
level it is (log entry 5); `cal` and the configuration are not written. A pending `POLL.END` then does nothing. -/
def Obligations.ResetLeavesTheResetRegisters : Prop :=
  ∀ s : State, ∃ (t : State) (level : Bool) (uses : Nat), exec .reset s = .next t ∧
    t = { tRise := none, tFall := none, synchronized := false, secondIndex := 0, buf := [], indicator := false,
          tg := none, telegramFresh := false, cal := s.cal, edgeLevel := level, edgePending := false,
          pollBusy := false, cfg := s.cfg, out := {}, outcome := [.resetDone], input := s.input, freeUses := uses } ∧
    t.phase = .acquiring ∧
    exec .pollEnd t = .next { t with out := {}, outcome := [.nothingToEnd] }

/-- R50: the state after reset, every value the spec gives; the phase is `Acquiring`. `edgeLevel` and `cal` have no
value in the spec and none here. -/
def Obligations.StateAfterReset : Prop :=
  (∀ c : Config,
    (State.resetWith c).tRiseValid = false ∧ (State.resetWith c).tFallValid = false ∧
    (State.resetWith c).synchronized = false ∧ (State.resetWith c).secondIndex = 0 ∧
    (∀ a, Memory.read (State.resetWith c).buf a = .unset) ∧ (State.resetWith c).indicator = false ∧
    (State.resetWith c).tg = none ∧ (State.resetWith c).telegramFresh = false ∧
    (State.resetWith c).edgePending = false ∧ (State.resetWith c).pollBusy = false ∧
    (State.resetWith c).cfg = c ∧ (State.resetWith c).phase = .acquiring) ∧
  State.reset = State.resetWith Config.default ∧
  Config.default = { p0 := 100, p1 := 200, jitter := 35, minSyncGap := 1800, maxSyncGap := 1900, parityMode := .perField }

/-! ### The mailbox -/

/-- R205: `CAPTURE` writes both mailbox cells and nothing else, whatever they held. -/
def Obligations.CaptureWritesOnlyTheMailbox : Prop :=
  ∀ (s : State) (level : Bool), exec (.capture level) s = .next
    { s with edgeLevel := level, edgePending := true, out := {}, outcome := [] }

/-- R207: `POLL.BEGIN` performs the whole `EDGE` step at the mailbox's level and sets `pollBusy` without clearing the
flag; with nothing pending, or a poll under way, it changes nothing. -/
def Obligations.PollBeginPerformsTheMailboxEdge : Prop :=
  ∀ (s : State) (now : U32),
    (s.pollBusy = false → s.edgePending = true →
      ∃ t, exec (if s.edgeLevel then .edgeRise now else .edgeFall now) s = .next t ∧
        exec (.pollBegin now) s = .next { t with pollBusy := true } ∧ t.edgePending = true) ∧
    ((s.pollBusy = true ∨ s.edgePending = false) →
      exec (.pollBegin now) s = .next { s with out := {}, outcome := [.nothingPending] })

/-- R208: `POLL.END` clears the flag and `pollBusy` without looking at the flag; with no poll under way it changes
nothing. -/
def Obligations.PollEndAcknowledges : Prop :=
  ∀ s : State,
    (s.pollBusy = true → exec .pollEnd s = .next
      { s with edgePending := false, pollBusy := false, out := {}, outcome := [] }) ∧
    (s.pollBusy = false → exec .pollEnd s = .next { s with out := {}, outcome := [.nothingToEnd] })

/-- R271: the two ways the mailbox loses an edge: a second `CAPTURE` before the poll replaces the first, and a
`CAPTURE` inside a poll leaves nothing pending when the poll ends. -/
def Obligations.MailboxLosesEdges : Prop :=
  (∀ (s t : State) (first second : Bool), exec (.capture first) s = .next t →
    exec (.capture second) t = exec (.capture second) s) ∧
  (∀ (s t : State) (level : Bool), s.pollBusy = true → exec (.capture level) s = .next t →
    exec .pollEnd t = .next
      { s with edgeLevel := level, edgePending := false, pollBusy := false, out := {}, outcome := [] })

/-- R47, R236: who writes the mailbox. Only `CAPTURE` sets `edgePending`; only `POLL.END` and `RESET` clear it; only
`CAPTURE` writes `edgeLevel`, which `RESET` leaves unspecified; only `POLL.BEGIN` sets `pollBusy`; only `POLL.END` and
`RESET` clear it. -/
def Obligations.MailboxWriters : Prop :=
  ∀ (i : Instr) (s t : State), exec i s = .next t →
    (s.edgePending = false → t.edgePending = true → ∃ level, i = .capture level) ∧
    (s.edgePending = true → t.edgePending = false → i = .pollEnd ∨ i = .reset) ∧
    (t.edgeLevel ≠ s.edgeLevel → i = .reset ∨ i = .capture t.edgeLevel) ∧
    (s.pollBusy = false → t.pollBusy = true → ∃ now, i = .pollBegin now) ∧
    (s.pollBusy = true → t.pollBusy = false → i = .pollEnd ∨ i = .reset)

/-- R231: of words presented at one time, `RESET` is performed and the others are dropped; `EDGE` is performed before
`TAKE`, in whichever order they are listed. -/
def Obligations.SimultaneousWordsAreSerialised : Prop :=
  (∀ (s : State) (ws : List PortWord), .reset 1#1 ∈ ws → (s.present ws).input = s.input ++ [.reset 1#1]) ∧
  (∀ (s : State) (w : BitVec 33),
    (s.present [.take 1#1, .edge w]).input = s.input ++ [.edge w, .take 1#1] ∧
    (s.present [.edge w, .take 1#1]).input = s.input ++ [.edge w, .take 1#1])

/-! ### Whole-machine rules -/

/-- The invariant (R34 items 1 to 3 among it) holds after reset, under any configuration. -/
def Obligations.InvariantHoldsAfterReset : Prop := ∀ c : Config, (State.resetWith c).Inv

/-- Every step keeps the invariant, from every state that meets it, whatever words are presented (R34). -/
def Obligations.EveryStepKeepsTheInvariant : Prop :=
  ∀ s t : State, s.Inv → step s = .next t → t.Inv

/-- R34, items 1 to 5, of every reachable state: under any configuration, any presented words and any host writes to
`cal`. Item 4 is the last clause: a step that does not perform `RESET` never clears `synchronized`. -/
def Obligations.InvariantsOfTheReachableStates : Prop :=
  ∀ s : State, Reachable s →
    s.secondIndex.toNat ≤ 59 ∧
    (∀ i, i < 59 → (Memory.read s.buf i ≠ .unset ↔ i < s.secondIndex.toNat)) ∧
    (s.synchronized = false → s.secondIndex = 0 ∧ ∀ i, i < 59 → Memory.read s.buf i = .unset) ∧
    ((Memory.read s.buf 58 ≠ .unset ↔ s.secondIndex = 59) ∧ (s.secondIndex = 59 ↔ s.phase = .complete)) ∧
    (∀ t : State, step s = .next t → s.synchronized = true → s.input.head? ≠ some (.reset 1#1) →
      t.synchronized = true)

/-- R94: only 61 of the 512 codes of the SyncState word are reachable. -/
def Obligations.ReachableSyncStateWords : Prop :=
  ∀ s : State, Reachable s →
    s.syncStateWord = 0#9 ∨ ∃ k, k ≤ 59 ∧ s.syncStateWord = BitVec.ofNat 9 (256 + k)

/-- R31: `synchronized` is set by every sync-gap detection and by nothing else, and cleared by `RESET` only. -/
def Obligations.SynchronizedWriters : Prop :=
  ∀ (i : Instr) (s t : State), exec i s = .next t →
    (s.synchronized = true → t.synchronized = false → i = .reset) ∧
    (∀ g, s.gapMeasured i = some g → isSyncGap s.cfg g = true → t.synchronized = true) ∧
    (s.synchronized = false → t.synchronized = true → ∃ g, s.gapMeasured i = some g ∧ isSyncGap s.cfg g = true)

/-- R149, R30: outside `RESET` the index is set to 0 by a sync-gap detection and nothing else, and otherwise only ever
advances by one, below 59. -/
def Obligations.SecondIndexWriters : Prop :=
  ∀ (i : Instr) (s t : State), i ≠ .reset → exec i s = .next t →
    t.secondIndex = s.secondIndex ∨
    (s.secondIndex.toNat ≤ 58 ∧ t.secondIndex.toNat = s.secondIndex.toNat + 1 ∧
      ∃ w bit, s.pulseMeasured i = some w ∧ classify s.cfg w = PulseClass.ofBit bit) ∨
    (t.secondIndex = 0 ∧ ∃ g, s.gapMeasured i = some g ∧ isSyncGap s.cfg g = true)

/-- R151: `out.minuteBoundary` is 1 in exactly the steps that detect a sync gap. -/
def Obligations.MinuteBoundaryExactlyOnSyncGap : Prop :=
  ∀ (i : Instr) (s t : State), exec i s = .next t →
    (t.out.minuteBoundary = true ↔ ∃ g, s.gapMeasured i = some g ∧ isSyncGap s.cfg g = true)

/-- R36, R162: outside `RESET` the indicator toggles exactly in the steps that store a bit. -/
def Obligations.IndicatorTogglesExactlyPerStoredBit : Prop :=
  ∀ (i : Instr) (s t : State), i ≠ .reset → exec i s = .next t →
    (t.indicator ≠ s.indicator ↔ ∃ k bit, Label.bitStored k bit ∈ t.outcome)

/-- R38, R39, R71: who writes the Telegram, its flag and the record. An assembly writes all three together; `TAKE`
clears the flag; `RESET` clears the flag and the Telegram; a sync-gap detection writes `cal.second`; nothing else
writes any of them. -/
def Obligations.TelegramWriters : Prop :=
  ∀ (i : Instr) (s t : State), exec i s = .next t →
    (t.out.telegramStrobe = true → t.telegramFresh = true ∧
      ∃ g, t.tg = some g ∧ t.cal =
        { second := 0, minute := g.minute, hour := g.hour, dayOfMonth := g.dayOfMonth, weekday := g.weekday,
          month := g.month, year := g.year, dstFlag := g.dstFlag }) ∧
    (t.out.telegramStrobe = false →
      (i ≠ .reset → t.tg = s.tg) ∧
      (i ≠ .reset → i ≠ .take → t.telegramFresh = s.telegramFresh) ∧
      (t.cal = s.cal ∨ t.out.minuteBoundary = true ∧ t.cal = { s.cal with second := 0 }))

/-- R161: what the tap shows, in every step of every operation. -/
def Obligations.TapShowsWhatTheStepDid : Prop :=
  ∀ (i : Instr) (s t : State), exec i s = .next t →
    (t.out.tap = .char0 ↔ ∃ k, Label.bitStored k false ∈ t.outcome) ∧
    (t.out.tap = .char1 ↔ ∃ k, Label.bitStored k true ∈ t.outcome) ∧
    (t.out.tap = .star ↔ ∃ w bit, Label.acquiringEcho w bit ∈ t.outcome)

/-- R226, R232: at most one error in a step, and only in a step that performs `EDGE.FALL`. -/
def Obligations.ErrorsOnlyOnFallingEdges : Prop :=
  ∀ (i : Instr) (s t : State), exec i s = .next t →
    (t.outcome.filter Label.isError).length ≤ 1 ∧
    ((∃ e, e ∈ t.outcome ∧ e.isError = true) → ∃ now, s.edgeOf i = some (false, now))

/-- R150: every operation takes the phase where the table of phase transitions says. -/
def Obligations.PhaseTransitions : Prop :=
  ∀ (i : Instr) (s t : State), exec i s = .next t → t.phase = s.phaseAfter i

/-- R40, R44, R78: the core never reads `cal`, and no operation writes the configuration: running an operation from two
states that differ in `cal` only gives next states that differ in `cal` only. -/
def Obligations.CalendarIsNeverReadAndConfigurationNeverWritten : Prop :=
  ∀ (i : Instr) (s : State) (c : Calendar), ∃ t t',
    exec i s = .next t ∧ exec i { s with cal := c } = .next t' ∧ { t' with cal := t.cal } = t ∧
    t.cfg = s.cfg ∧ t.input = s.input
end

