-- ==== Sys2Proof/Laws/Memory.lean ====
section
/-! SUPPORT. The laws of the BitBuffer: a read after a write, the canonical form, `ToBits` (20_memory.md). -/

namespace Sys2Proof.Machine

@[simp] theorem Symbol.ofBit_ne_unset (bit : Bool) : Symbol.ofBit bit ≠ .unset := by
  cases bit <;> decide

@[simp] theorem Symbol.bit_ofBit (bit : Bool) : (Symbol.ofBit bit).bit = some bit := by
  cases bit <;> rfl

@[simp] theorem Symbol.ofBit_eq_one (bit : Bool) : Symbol.ofBit bit = .one ↔ bit = true := by
  cases bit <;> decide

@[simp] theorem Memory.read_nil (a : Nat) : Memory.read [] a = .unset := rfl

@[simp] theorem Memory.bufClear_eq (m : Memory) : Memory.bufClear m = [] := rfl

/-! ### Reading after a write -/

/-- Setting a symbol other than `unset` is read back, whatever the list. -/
theorem Memory.read_set_self (m : Memory) (a : Nat) (c : Symbol) (hc : c ≠ .unset) :
    Memory.read (Memory.set m a c) a = c := by
  induction m with
  | nil => simp [Memory.set, hc, Memory.read]
  | cons e m ih =>
    obtain ⟨b, x⟩ := e
    by_cases h1 : a < b
    · simp [Memory.set, h1, hc, Memory.read]
    · by_cases h2 : a = b
      · simp [Memory.set, h2, hc, Memory.read]
      · simp [Memory.set, h1, h2, Memory.read, ih]

/-- Setting a symbol other than `unset` leaves every other address alone, whatever the list. -/
theorem Memory.read_set_other (m : Memory) (a a' : Nat) (c : Symbol) (hc : c ≠ .unset) (h : a' ≠ a) :
    Memory.read (Memory.set m a c) a' = Memory.read m a' := by
  induction m with
  | nil => simp [Memory.set, hc, Memory.read, h]
  | cons e m ih =>
    obtain ⟨b, x⟩ := e
    by_cases h1 : a < b
    · simp [Memory.set, h1, hc, Memory.read, h]
    · by_cases h2 : a = b
      · have : a' ≠ b := h2 ▸ h
        simp [Memory.set, h2, hc, Memory.read, this]
      · simp only [Memory.set, h1, h2, if_false, Memory.read, ih]

theorem Memory.read_bufWrite_self (m : Memory) (i : Nat) (c : Symbol) (hi : i < 59) (hc : c ≠ .unset) :
    Memory.read (Memory.bufWrite m i c) i = c := by
  simp [Memory.bufWrite, hi, Memory.read_set_self, hc]

theorem Memory.read_bufWrite_other (m : Memory) (i a : Nat) (c : Symbol) (hc : c ≠ .unset) (h : a ≠ i) :
    Memory.read (Memory.bufWrite m i c) a = Memory.read m a := by
  unfold Memory.bufWrite
  split
  · exact Memory.read_set_other m i a c hc h
  · rfl

/-! ### The canonical form -/

theorem Memory.wfFrom_cons (lo a : Nat) (c : Symbol) (m : Memory) :
    Memory.wfFrom lo ((a, c) :: m) = true ↔ lo ≤ a ∧ a < 59 ∧ c ≠ .unset ∧ Memory.wfFrom (a + 1) m = true := by
  simp [Memory.wfFrom, and_assoc]

theorem Memory.wfFrom_mono {lo lo' : Nat} {m : Memory} (h : Memory.wfFrom lo m = true) (hle : lo' ≤ lo) :
    Memory.wfFrom lo' m = true := by
  cases m with
  | nil => rfl
  | cons e m =>
    obtain ⟨a, c⟩ := e
    rw [Memory.wfFrom_cons] at h ⊢
    exact ⟨by omega, h.2⟩

/-- Setting an address, to `unset` as to anything else, keeps the canonical form. -/
theorem Memory.wfFrom_set {lo : Nat} {m : Memory} (a : Nat) (c : Symbol) (h : Memory.wfFrom lo m = true)
    (hlo : lo ≤ a) (ha : a < 59) : Memory.wfFrom lo (Memory.set m a c) = true := by
  induction m generalizing lo with
  | nil =>
    unfold Memory.set
    split
    · rfl
    · rename_i hc
      exact (Memory.wfFrom_cons ..).2 ⟨hlo, ha, hc, rfl⟩
  | cons e m ih =>
    obtain ⟨b, x⟩ := e
    have hb := (Memory.wfFrom_cons ..).1 h
    unfold Memory.set
    by_cases h1 : a < b
    · simp only [h1, if_true]
      split
      · exact h
      · rename_i hc
        exact (Memory.wfFrom_cons ..).2 ⟨hlo, ha, hc, (Memory.wfFrom_cons ..).2 ⟨h1, hb.2⟩⟩
    · by_cases h2 : a = b
      · subst h2
        simp only [Nat.lt_irrefl, if_false, if_true]
        split
        · exact Memory.wfFrom_mono hb.2.2.2 (by omega)
        · rename_i hc
          exact (Memory.wfFrom_cons ..).2 ⟨hlo, ha, hc, hb.2.2.2⟩
      · simp only [h1, h2, if_false]
        exact (Memory.wfFrom_cons ..).2 ⟨hb.1, hb.2.1, hb.2.2.1, ih hb.2.2.2 (by omega)⟩

/-- `BufWrite` keeps the canonical form. -/
theorem Memory.wf_bufWrite {m : Memory} (i : Nat) (c : Symbol) (h : Memory.wf m = true) :
    Memory.wf (Memory.bufWrite m i c) = true := by
  unfold Memory.bufWrite
  split
  · exact Memory.wfFrom_set i c h (Nat.zero_le _) (by assumption)
  · exact h

/-- `BufClear` gives the canonical form. -/
theorem Memory.wf_bufClear (m : Memory) : Memory.wf (Memory.bufClear m) = true := rfl

/-- The memory after reset has the canonical form. -/
theorem Memory.wf_reset : Memory.wf State.reset.buf = true := rfl

theorem Memory.read_of_lt {lo a : Nat} {m : Memory} (h : Memory.wfFrom lo m = true) (ha : a < lo) :
    Memory.read m a = .unset := by
  induction m generalizing lo with
  | nil => rfl
  | cons e m ih =>
    obtain ⟨b, x⟩ := e
    have hb := (Memory.wfFrom_cons ..).1 h
    have : a ≠ b := by omega
    simp only [Memory.read, this, if_false]
    exact ih hb.2.2.2 (by omega)

/-- Two canonical buffers that read alike are the same list. -/
theorem Memory.ext_of_wfFrom {lo : Nat} {m m' : Memory} (h : Memory.wfFrom lo m = true)
    (h' : Memory.wfFrom lo m' = true) (hr : ∀ a, Memory.read m a = Memory.read m' a) : m = m' := by
  induction m generalizing lo m' with
  | nil =>
    cases m' with
    | nil => rfl
    | cons e m' =>
      obtain ⟨b, x⟩ := e
      have hb := (Memory.wfFrom_cons ..).1 h'
      have := hr b
      simp [Memory.read] at this
      exact absurd this.symm hb.2.2.1
  | cons e m ih =>
    obtain ⟨b, x⟩ := e
    have hb := (Memory.wfFrom_cons ..).1 h
    cases m' with
    | nil =>
      have := hr b
      simp [Memory.read] at this
      exact absurd this hb.2.2.1
    | cons e' m' =>
      obtain ⟨b', x'⟩ := e'
      have hb' := (Memory.wfFrom_cons ..).1 h'
      have hbb : b = b' := by
        rcases Nat.lt_trichotomy b b' with hlt | heq | hgt
        · have := hr b
          simp only [Memory.read, if_true, Nat.ne_of_lt hlt, if_false] at this
          rw [Memory.read_of_lt hb'.2.2.2 (by omega)] at this
          exact absurd this hb.2.2.1
        · exact heq
        · have := hr b'
          simp only [Memory.read, if_true, Nat.ne_of_lt hgt, if_false] at this
          rw [Memory.read_of_lt hb.2.2.2 (by omega)] at this
          exact absurd this.symm hb'.2.2.1
      subst hbb
      have hx : x = x' := by simpa [Memory.read] using hr b
      subst hx
      congr 1
      refine ih hb.2.2.2 hb'.2.2.2 fun a => ?_
      by_cases ha : a = b
      · subst ha
        rw [Memory.read_of_lt hb.2.2.2 (by omega), Memory.read_of_lt hb'.2.2.2 (by omega)]
      · simpa [Memory.read, ha] using hr a

/-- Equal memories are equal data. -/
theorem Memory.ext_of_wf {m m' : Memory} (h : Memory.wf m = true) (h' : Memory.wf m' = true)
    (hr : ∀ a, Memory.read m a = Memory.read m' a) : m = m' :=
  Memory.ext_of_wfFrom h h' hr

/-! ### `ToBits` -/

theorem packBits_getLsbD (f : Nat → Bool) (n i : Nat) :
    (packBits f n).getLsbD i = (decide (i < n) && f i) := by
  induction n with
  | zero => simp [packBits]
  | succ n ih =>
    simp only [packBits, BitVec.getLsbD_cons, ih]
    by_cases h : i = n
    · simp [h]
    · simp only [h, if_false]
      congr 1
      simp only [decide_eq_decide]
      omega

theorem Memory.full_iff (m : Memory) :
    Memory.full m = true ↔ ∀ i, i < 59 → Memory.read m i ≠ .unset := by
  simp [Memory.full, Memory.bufRead]

/-- `ToBits` answers `b` exactly when every slot holds the symbol of its bit of `b`. -/
theorem Memory.toBits_eq_some (m : Memory) (b : Frame) :
    Memory.toBits m = some b ↔ ∀ i, i < 59 → Memory.read m i = Symbol.ofBit (b.getLsbD i) := by
  constructor
  · intro h i hi
    unfold Memory.toBits at h
    split at h
    · rename_i hf
      have hne := (Memory.full_iff m).1 hf i hi
      obtain rfl := Option.some.inj h
      rw [packBits_getLsbD]
      cases hr : Memory.read m i <;> simp_all [Symbol.ofBit]
    · cases h
  · intro h
    have hf : Memory.full m = true := (Memory.full_iff m).2 fun i hi => by rw [h i hi]; simp
    simp only [Memory.toBits, hf, if_true, Option.some.injEq]
    apply BitVec.eq_of_getLsbD_eq
    intro i hi
    rw [packBits_getLsbD, h i hi]
    simp [hi]

theorem Memory.toBits_eq_none (m : Memory) :
    Memory.toBits m = none ↔ ∃ i, i < 59 ∧ Memory.read m i = .unset := by
  rw [← not_iff_not, Memory.toBits]
  constructor
  · intro h
    split at h
    · rename_i hf
      rintro ⟨i, hi, hu⟩
      exact (Memory.full_iff m).1 hf i hi hu
    · exact absurd rfl h
  · intro h
    have hf : Memory.full m = true := (Memory.full_iff m).2 fun i hi hu => h ⟨i, hi, hu⟩
    simp [hf]

end Sys2Proof.Machine
end

