-- ==== Sys2Proof/Laws/State.lean ====
section
/-! SUPPORT. One lemma per field per update of the state, true by unfolding, so that no later proof unfolds a record
update. -/

namespace Sys2Proof.Machine

/-! ### `startOp` -/

@[simp] theorem State.startOp_tRise (s : State) :
    (s.startOp).tRise = s.tRise := rfl
@[simp] theorem State.startOp_tFall (s : State) :
    (s.startOp).tFall = s.tFall := rfl
@[simp] theorem State.startOp_synchronized (s : State) :
    (s.startOp).synchronized = s.synchronized := rfl
@[simp] theorem State.startOp_secondIndex (s : State) :
    (s.startOp).secondIndex = s.secondIndex := rfl
@[simp] theorem State.startOp_buf (s : State) :
    (s.startOp).buf = s.buf := rfl
@[simp] theorem State.startOp_indicator (s : State) :
    (s.startOp).indicator = s.indicator := rfl
@[simp] theorem State.startOp_tg (s : State) :
    (s.startOp).tg = s.tg := rfl
@[simp] theorem State.startOp_telegramFresh (s : State) :
    (s.startOp).telegramFresh = s.telegramFresh := rfl
@[simp] theorem State.startOp_cal (s : State) :
    (s.startOp).cal = s.cal := rfl
@[simp] theorem State.startOp_edgeLevel (s : State) :
    (s.startOp).edgeLevel = s.edgeLevel := rfl
@[simp] theorem State.startOp_edgePending (s : State) :
    (s.startOp).edgePending = s.edgePending := rfl
@[simp] theorem State.startOp_pollBusy (s : State) :
    (s.startOp).pollBusy = s.pollBusy := rfl
@[simp] theorem State.startOp_cfg (s : State) :
    (s.startOp).cfg = s.cfg := rfl
@[simp] theorem State.startOp_out (s : State) :
    (s.startOp).out = {} := rfl
@[simp] theorem State.startOp_outcome (s : State) :
    (s.startOp).outcome = [] := rfl
@[simp] theorem State.startOp_input (s : State) :
    (s.startOp).input = s.input := rfl
@[simp] theorem State.startOp_freeUses (s : State) :
    (s.startOp).freeUses = s.freeUses := rfl

/-! ### `signal` -/

@[simp] theorem State.signal_tRise (l : Label) (s : State) :
    (s.signal l).tRise = s.tRise := rfl
@[simp] theorem State.signal_tFall (l : Label) (s : State) :
    (s.signal l).tFall = s.tFall := rfl
@[simp] theorem State.signal_synchronized (l : Label) (s : State) :
    (s.signal l).synchronized = s.synchronized := rfl
@[simp] theorem State.signal_secondIndex (l : Label) (s : State) :
    (s.signal l).secondIndex = s.secondIndex := rfl
@[simp] theorem State.signal_buf (l : Label) (s : State) :
    (s.signal l).buf = s.buf := rfl
@[simp] theorem State.signal_indicator (l : Label) (s : State) :
    (s.signal l).indicator = s.indicator := rfl
@[simp] theorem State.signal_tg (l : Label) (s : State) :
    (s.signal l).tg = s.tg := rfl
@[simp] theorem State.signal_telegramFresh (l : Label) (s : State) :
    (s.signal l).telegramFresh = s.telegramFresh := rfl
@[simp] theorem State.signal_cal (l : Label) (s : State) :
    (s.signal l).cal = s.cal := rfl
@[simp] theorem State.signal_edgeLevel (l : Label) (s : State) :
    (s.signal l).edgeLevel = s.edgeLevel := rfl
@[simp] theorem State.signal_edgePending (l : Label) (s : State) :
    (s.signal l).edgePending = s.edgePending := rfl
@[simp] theorem State.signal_pollBusy (l : Label) (s : State) :
    (s.signal l).pollBusy = s.pollBusy := rfl
@[simp] theorem State.signal_cfg (l : Label) (s : State) :
    (s.signal l).cfg = s.cfg := rfl
@[simp] theorem State.signal_out (l : Label) (s : State) :
    (s.signal l).out = s.out := rfl
@[simp] theorem State.signal_outcome (l : Label) (s : State) :
    (s.signal l).outcome = s.outcome ++ [l] := rfl
@[simp] theorem State.signal_input (l : Label) (s : State) :
    (s.signal l).input = s.input := rfl
@[simp] theorem State.signal_freeUses (l : Label) (s : State) :
    (s.signal l).freeUses = s.freeUses := rfl

/-! ### `syncFire` -/

@[simp] theorem State.syncFire_tRise (g : U32) (s : State) :
    (s.syncFire g).tRise = s.tRise := rfl
@[simp] theorem State.syncFire_tFall (g : U32) (s : State) :
    (s.syncFire g).tFall = s.tFall := rfl
@[simp] theorem State.syncFire_synchronized (g : U32) (s : State) :
    (s.syncFire g).synchronized = true := rfl
@[simp] theorem State.syncFire_secondIndex (g : U32) (s : State) :
    (s.syncFire g).secondIndex = 0 := rfl
@[simp] theorem State.syncFire_buf (g : U32) (s : State) :
    (s.syncFire g).buf = [] := rfl
@[simp] theorem State.syncFire_indicator (g : U32) (s : State) :
    (s.syncFire g).indicator = s.indicator := rfl
@[simp] theorem State.syncFire_tg (g : U32) (s : State) :
    (s.syncFire g).tg = s.tg := rfl
@[simp] theorem State.syncFire_telegramFresh (g : U32) (s : State) :
    (s.syncFire g).telegramFresh = s.telegramFresh := rfl
@[simp] theorem State.syncFire_cal (g : U32) (s : State) :
    (s.syncFire g).cal = { s.cal with second := 0 } := rfl
@[simp] theorem State.syncFire_edgeLevel (g : U32) (s : State) :
    (s.syncFire g).edgeLevel = s.edgeLevel := rfl
@[simp] theorem State.syncFire_edgePending (g : U32) (s : State) :
    (s.syncFire g).edgePending = s.edgePending := rfl
@[simp] theorem State.syncFire_pollBusy (g : U32) (s : State) :
    (s.syncFire g).pollBusy = s.pollBusy := rfl
@[simp] theorem State.syncFire_cfg (g : U32) (s : State) :
    (s.syncFire g).cfg = s.cfg := rfl
@[simp] theorem State.syncFire_out (g : U32) (s : State) :
    (s.syncFire g).out = { s.out with minuteBoundary := true } := rfl
@[simp] theorem State.syncFire_outcome (g : U32) (s : State) :
    (s.syncFire g).outcome = s.outcome ++ [.syncDetected g] := rfl
@[simp] theorem State.syncFire_input (g : U32) (s : State) :
    (s.syncFire g).input = s.input := rfl
@[simp] theorem State.syncFire_freeUses (g : U32) (s : State) :
    (s.syncFire g).freeUses = s.freeUses := rfl

/-! ### `syncIdle` -/

@[simp] theorem State.syncIdle_tRise (g : U32) (s : State) :
    (s.syncIdle g).tRise = s.tRise := rfl
@[simp] theorem State.syncIdle_tFall (g : U32) (s : State) :
    (s.syncIdle g).tFall = s.tFall := rfl
@[simp] theorem State.syncIdle_synchronized (g : U32) (s : State) :
    (s.syncIdle g).synchronized = s.synchronized := rfl
@[simp] theorem State.syncIdle_secondIndex (g : U32) (s : State) :
    (s.syncIdle g).secondIndex = s.secondIndex := rfl
@[simp] theorem State.syncIdle_buf (g : U32) (s : State) :
    (s.syncIdle g).buf = s.buf := rfl
@[simp] theorem State.syncIdle_indicator (g : U32) (s : State) :
    (s.syncIdle g).indicator = s.indicator := rfl
@[simp] theorem State.syncIdle_tg (g : U32) (s : State) :
    (s.syncIdle g).tg = s.tg := rfl
@[simp] theorem State.syncIdle_telegramFresh (g : U32) (s : State) :
    (s.syncIdle g).telegramFresh = s.telegramFresh := rfl
@[simp] theorem State.syncIdle_cal (g : U32) (s : State) :
    (s.syncIdle g).cal = s.cal := rfl
@[simp] theorem State.syncIdle_edgeLevel (g : U32) (s : State) :
    (s.syncIdle g).edgeLevel = s.edgeLevel := rfl
@[simp] theorem State.syncIdle_edgePending (g : U32) (s : State) :
    (s.syncIdle g).edgePending = s.edgePending := rfl
@[simp] theorem State.syncIdle_pollBusy (g : U32) (s : State) :
    (s.syncIdle g).pollBusy = s.pollBusy := rfl
@[simp] theorem State.syncIdle_cfg (g : U32) (s : State) :
    (s.syncIdle g).cfg = s.cfg := rfl
@[simp] theorem State.syncIdle_out (g : U32) (s : State) :
    (s.syncIdle g).out = s.out := rfl
@[simp] theorem State.syncIdle_outcome (g : U32) (s : State) :
    (s.syncIdle g).outcome = s.outcome ++ [.noSync g] := rfl
@[simp] theorem State.syncIdle_input (g : U32) (s : State) :
    (s.syncIdle g).input = s.input := rfl
@[simp] theorem State.syncIdle_freeUses (g : U32) (s : State) :
    (s.syncIdle g).freeUses = s.freeUses := rfl

/-! ### `assemble` -/

@[simp] theorem State.assemble_tRise (b : Frame) (s : State) :
    (s.assemble b).tRise = s.tRise := rfl
@[simp] theorem State.assemble_tFall (b : Frame) (s : State) :
    (s.assemble b).tFall = s.tFall := rfl
@[simp] theorem State.assemble_synchronized (b : Frame) (s : State) :
    (s.assemble b).synchronized = s.synchronized := rfl
@[simp] theorem State.assemble_secondIndex (b : Frame) (s : State) :
    (s.assemble b).secondIndex = s.secondIndex := rfl
@[simp] theorem State.assemble_buf (b : Frame) (s : State) :
    (s.assemble b).buf = s.buf := rfl
@[simp] theorem State.assemble_indicator (b : Frame) (s : State) :
    (s.assemble b).indicator = s.indicator := rfl
@[simp] theorem State.assemble_tg (b : Frame) (s : State) :
    (s.assemble b).tg = some (telegramOf b) := rfl
@[simp] theorem State.assemble_telegramFresh (b : Frame) (s : State) :
    (s.assemble b).telegramFresh = true := rfl
@[simp] theorem State.assemble_cal (b : Frame) (s : State) :
    (s.assemble b).cal = projectToCalendar (telegramOf b) := rfl
@[simp] theorem State.assemble_edgeLevel (b : Frame) (s : State) :
    (s.assemble b).edgeLevel = s.edgeLevel := rfl
@[simp] theorem State.assemble_edgePending (b : Frame) (s : State) :
    (s.assemble b).edgePending = s.edgePending := rfl
@[simp] theorem State.assemble_pollBusy (b : Frame) (s : State) :
    (s.assemble b).pollBusy = s.pollBusy := rfl
@[simp] theorem State.assemble_cfg (b : Frame) (s : State) :
    (s.assemble b).cfg = s.cfg := rfl
@[simp] theorem State.assemble_out (b : Frame) (s : State) :
    (s.assemble b).out = { s.out with telegramStrobe := true } := rfl
@[simp] theorem State.assemble_outcome (b : Frame) (s : State) :
    (s.assemble b).outcome = s.outcome ++ [.telegramAssembled] := rfl
@[simp] theorem State.assemble_input (b : Frame) (s : State) :
    (s.assemble b).input = s.input := rfl
@[simp] theorem State.assemble_freeUses (b : Frame) (s : State) :
    (s.assemble b).freeUses = s.freeUses := rfl

/-! ### `storeBit` -/

@[simp] theorem State.storeBit_tRise (bit : Bool) (s : State) :
    (s.storeBit bit).tRise = s.tRise := rfl
@[simp] theorem State.storeBit_tFall (bit : Bool) (s : State) :
    (s.storeBit bit).tFall = s.tFall := rfl
@[simp] theorem State.storeBit_synchronized (bit : Bool) (s : State) :
    (s.storeBit bit).synchronized = s.synchronized := rfl
@[simp] theorem State.storeBit_secondIndex (bit : Bool) (s : State) :
    (s.storeBit bit).secondIndex = s.secondIndex + 1 := rfl
@[simp] theorem State.storeBit_buf (bit : Bool) (s : State) :
    (s.storeBit bit).buf = Memory.bufWrite s.buf s.secondIndex.toNat (Symbol.ofBit bit) := rfl
@[simp] theorem State.storeBit_indicator (bit : Bool) (s : State) :
    (s.storeBit bit).indicator = (!s.indicator) := rfl
@[simp] theorem State.storeBit_tg (bit : Bool) (s : State) :
    (s.storeBit bit).tg = s.tg := rfl
@[simp] theorem State.storeBit_telegramFresh (bit : Bool) (s : State) :
    (s.storeBit bit).telegramFresh = s.telegramFresh := rfl
@[simp] theorem State.storeBit_cal (bit : Bool) (s : State) :
    (s.storeBit bit).cal = s.cal := rfl
@[simp] theorem State.storeBit_edgeLevel (bit : Bool) (s : State) :
    (s.storeBit bit).edgeLevel = s.edgeLevel := rfl
@[simp] theorem State.storeBit_edgePending (bit : Bool) (s : State) :
    (s.storeBit bit).edgePending = s.edgePending := rfl
@[simp] theorem State.storeBit_pollBusy (bit : Bool) (s : State) :
    (s.storeBit bit).pollBusy = s.pollBusy := rfl
@[simp] theorem State.storeBit_cfg (bit : Bool) (s : State) :
    (s.storeBit bit).cfg = s.cfg := rfl
@[simp] theorem State.storeBit_out (bit : Bool) (s : State) :
    (s.storeBit bit).out = { s.out with tap := Tap.ofBit bit } := rfl
@[simp] theorem State.storeBit_outcome (bit : Bool) (s : State) :
    (s.storeBit bit).outcome = s.outcome ++ [.bitStored s.secondIndex.toNat bit] := rfl
@[simp] theorem State.storeBit_input (bit : Bool) (s : State) :
    (s.storeBit bit).input = s.input := rfl
@[simp] theorem State.storeBit_freeUses (bit : Bool) (s : State) :
    (s.storeBit bit).freeUses = s.freeUses := rfl

/-! ### `resetRegisters` -/

@[simp] theorem State.resetRegisters_tRise (s : State) :
    (s.resetRegisters).tRise = none := rfl
@[simp] theorem State.resetRegisters_tFall (s : State) :
    (s.resetRegisters).tFall = none := rfl
@[simp] theorem State.resetRegisters_synchronized (s : State) :
    (s.resetRegisters).synchronized = false := rfl
@[simp] theorem State.resetRegisters_secondIndex (s : State) :
    (s.resetRegisters).secondIndex = 0 := rfl
@[simp] theorem State.resetRegisters_buf (s : State) :
    (s.resetRegisters).buf = [] := rfl
@[simp] theorem State.resetRegisters_indicator (s : State) :
    (s.resetRegisters).indicator = false := rfl
@[simp] theorem State.resetRegisters_tg (s : State) :
    (s.resetRegisters).tg = none := rfl
@[simp] theorem State.resetRegisters_telegramFresh (s : State) :
    (s.resetRegisters).telegramFresh = false := rfl
@[simp] theorem State.resetRegisters_cal (s : State) :
    (s.resetRegisters).cal = s.cal := rfl
@[simp] theorem State.resetRegisters_edgeLevel (s : State) :
    (s.resetRegisters).edgeLevel = Config.freeEdgeLevel s.freeUses := rfl
@[simp] theorem State.resetRegisters_edgePending (s : State) :
    (s.resetRegisters).edgePending = false := rfl
@[simp] theorem State.resetRegisters_pollBusy (s : State) :
    (s.resetRegisters).pollBusy = false := rfl
@[simp] theorem State.resetRegisters_cfg (s : State) :
    (s.resetRegisters).cfg = s.cfg := rfl
@[simp] theorem State.resetRegisters_out (s : State) :
    (s.resetRegisters).out = s.out := rfl
@[simp] theorem State.resetRegisters_outcome (s : State) :
    (s.resetRegisters).outcome = s.outcome := rfl
@[simp] theorem State.resetRegisters_input (s : State) :
    (s.resetRegisters).input = s.input := rfl
@[simp] theorem State.resetRegisters_freeUses (s : State) :
    (s.resetRegisters).freeUses = s.freeUses + 1 := rfl

/-! ### `placeWord` -/

@[simp] theorem State.placeWord_tRise (p : PortWord) (s : State) :
    (s.placeWord p).tRise = s.tRise := rfl
@[simp] theorem State.placeWord_tFall (p : PortWord) (s : State) :
    (s.placeWord p).tFall = s.tFall := rfl
@[simp] theorem State.placeWord_synchronized (p : PortWord) (s : State) :
    (s.placeWord p).synchronized = s.synchronized := rfl
@[simp] theorem State.placeWord_secondIndex (p : PortWord) (s : State) :
    (s.placeWord p).secondIndex = s.secondIndex := rfl
@[simp] theorem State.placeWord_buf (p : PortWord) (s : State) :
    (s.placeWord p).buf = s.buf := rfl
@[simp] theorem State.placeWord_indicator (p : PortWord) (s : State) :
    (s.placeWord p).indicator = s.indicator := rfl
@[simp] theorem State.placeWord_tg (p : PortWord) (s : State) :
    (s.placeWord p).tg = s.tg := rfl
@[simp] theorem State.placeWord_telegramFresh (p : PortWord) (s : State) :
    (s.placeWord p).telegramFresh = s.telegramFresh := rfl
@[simp] theorem State.placeWord_cal (p : PortWord) (s : State) :
    (s.placeWord p).cal = s.cal := rfl
@[simp] theorem State.placeWord_edgeLevel (p : PortWord) (s : State) :
    (s.placeWord p).edgeLevel = s.edgeLevel := rfl
@[simp] theorem State.placeWord_edgePending (p : PortWord) (s : State) :
    (s.placeWord p).edgePending = s.edgePending := rfl
@[simp] theorem State.placeWord_pollBusy (p : PortWord) (s : State) :
    (s.placeWord p).pollBusy = s.pollBusy := rfl
@[simp] theorem State.placeWord_cfg (p : PortWord) (s : State) :
    (s.placeWord p).cfg = s.cfg := rfl
@[simp] theorem State.placeWord_out (p : PortWord) (s : State) :
    (s.placeWord p).out = s.out := rfl
@[simp] theorem State.placeWord_outcome (p : PortWord) (s : State) :
    (s.placeWord p).outcome = s.outcome := rfl
@[simp] theorem State.placeWord_input (p : PortWord) (s : State) :
    (s.placeWord p).input = p :: s.input := rfl
@[simp] theorem State.placeWord_freeUses (p : PortWord) (s : State) :
    (s.placeWord p).freeUses = s.freeUses := rfl

/-! ### `present` -/

@[simp] theorem State.present_tRise (ws : List PortWord) (s : State) :
    (s.present ws).tRise = s.tRise := rfl
@[simp] theorem State.present_tFall (ws : List PortWord) (s : State) :
    (s.present ws).tFall = s.tFall := rfl
@[simp] theorem State.present_synchronized (ws : List PortWord) (s : State) :
    (s.present ws).synchronized = s.synchronized := rfl
@[simp] theorem State.present_secondIndex (ws : List PortWord) (s : State) :
    (s.present ws).secondIndex = s.secondIndex := rfl
@[simp] theorem State.present_buf (ws : List PortWord) (s : State) :
    (s.present ws).buf = s.buf := rfl
@[simp] theorem State.present_indicator (ws : List PortWord) (s : State) :
    (s.present ws).indicator = s.indicator := rfl
@[simp] theorem State.present_tg (ws : List PortWord) (s : State) :
    (s.present ws).tg = s.tg := rfl
@[simp] theorem State.present_telegramFresh (ws : List PortWord) (s : State) :
    (s.present ws).telegramFresh = s.telegramFresh := rfl
@[simp] theorem State.present_cal (ws : List PortWord) (s : State) :
    (s.present ws).cal = s.cal := rfl
@[simp] theorem State.present_edgeLevel (ws : List PortWord) (s : State) :
    (s.present ws).edgeLevel = s.edgeLevel := rfl
@[simp] theorem State.present_edgePending (ws : List PortWord) (s : State) :
    (s.present ws).edgePending = s.edgePending := rfl
@[simp] theorem State.present_pollBusy (ws : List PortWord) (s : State) :
    (s.present ws).pollBusy = s.pollBusy := rfl
@[simp] theorem State.present_cfg (ws : List PortWord) (s : State) :
    (s.present ws).cfg = s.cfg := rfl
@[simp] theorem State.present_out (ws : List PortWord) (s : State) :
    (s.present ws).out = s.out := rfl
@[simp] theorem State.present_outcome (ws : List PortWord) (s : State) :
    (s.present ws).outcome = s.outcome := rfl
@[simp] theorem State.present_input (ws : List PortWord) (s : State) :
    (s.present ws).input = s.input ++ serialise ws := rfl
@[simp] theorem State.present_freeUses (ws : List PortWord) (s : State) :
    (s.present ws).freeUses = s.freeUses := rfl

/-! ### `hostWriteCal` -/

@[simp] theorem State.hostWriteCal_tRise (c : Calendar) (s : State) :
    (s.hostWriteCal c).tRise = s.tRise := rfl
@[simp] theorem State.hostWriteCal_tFall (c : Calendar) (s : State) :
    (s.hostWriteCal c).tFall = s.tFall := rfl
@[simp] theorem State.hostWriteCal_synchronized (c : Calendar) (s : State) :
    (s.hostWriteCal c).synchronized = s.synchronized := rfl
@[simp] theorem State.hostWriteCal_secondIndex (c : Calendar) (s : State) :
    (s.hostWriteCal c).secondIndex = s.secondIndex := rfl
@[simp] theorem State.hostWriteCal_buf (c : Calendar) (s : State) :
    (s.hostWriteCal c).buf = s.buf := rfl
@[simp] theorem State.hostWriteCal_indicator (c : Calendar) (s : State) :
    (s.hostWriteCal c).indicator = s.indicator := rfl
@[simp] theorem State.hostWriteCal_tg (c : Calendar) (s : State) :
    (s.hostWriteCal c).tg = s.tg := rfl
@[simp] theorem State.hostWriteCal_telegramFresh (c : Calendar) (s : State) :
    (s.hostWriteCal c).telegramFresh = s.telegramFresh := rfl
@[simp] theorem State.hostWriteCal_cal (c : Calendar) (s : State) :
    (s.hostWriteCal c).cal = c := rfl
@[simp] theorem State.hostWriteCal_edgeLevel (c : Calendar) (s : State) :
    (s.hostWriteCal c).edgeLevel = s.edgeLevel := rfl
@[simp] theorem State.hostWriteCal_edgePending (c : Calendar) (s : State) :
    (s.hostWriteCal c).edgePending = s.edgePending := rfl
@[simp] theorem State.hostWriteCal_pollBusy (c : Calendar) (s : State) :
    (s.hostWriteCal c).pollBusy = s.pollBusy := rfl
@[simp] theorem State.hostWriteCal_cfg (c : Calendar) (s : State) :
    (s.hostWriteCal c).cfg = s.cfg := rfl
@[simp] theorem State.hostWriteCal_out (c : Calendar) (s : State) :
    (s.hostWriteCal c).out = s.out := rfl
@[simp] theorem State.hostWriteCal_outcome (c : Calendar) (s : State) :
    (s.hostWriteCal c).outcome = s.outcome := rfl
@[simp] theorem State.hostWriteCal_input (c : Calendar) (s : State) :
    (s.hostWriteCal c).input = s.input := rfl
@[simp] theorem State.hostWriteCal_freeUses (c : Calendar) (s : State) :
    (s.hostWriteCal c).freeUses = s.freeUses := rfl

end Sys2Proof.Machine
end

