-- ==== Sys2Proof/Laws/Pipeline.lean ====
section
/-! SUPPORT. What each shared operation of the pipeline can do, said once: what it leaves alone (its frame) and, case by
case, what it answers. Proofs about the machine cite these and do not unfold the operations. -/

namespace Sys2Proof.Machine

/-! ### What the operations leave alone -/

@[simp] theorem State.syncDetect_tRise (g : U32) (s : State) : (s.syncDetect g).tRise = s.tRise := by
  unfold State.syncDetect; split <;> simp
@[simp] theorem State.syncDetect_tFall (g : U32) (s : State) : (s.syncDetect g).tFall = s.tFall := by
  unfold State.syncDetect; split <;> simp
@[simp] theorem State.syncDetect_indicator (g : U32) (s : State) : (s.syncDetect g).indicator = s.indicator := by
  unfold State.syncDetect; split <;> simp
@[simp] theorem State.syncDetect_tg (g : U32) (s : State) : (s.syncDetect g).tg = s.tg := by
  unfold State.syncDetect; split <;> simp
@[simp] theorem State.syncDetect_telegramFresh (g : U32) (s : State) : (s.syncDetect g).telegramFresh = s.telegramFresh := by
  unfold State.syncDetect; split <;> simp
@[simp] theorem State.syncDetect_edgeLevel (g : U32) (s : State) : (s.syncDetect g).edgeLevel = s.edgeLevel := by
  unfold State.syncDetect; split <;> simp
@[simp] theorem State.syncDetect_edgePending (g : U32) (s : State) : (s.syncDetect g).edgePending = s.edgePending := by
  unfold State.syncDetect; split <;> simp
@[simp] theorem State.syncDetect_pollBusy (g : U32) (s : State) : (s.syncDetect g).pollBusy = s.pollBusy := by
  unfold State.syncDetect; split <;> simp
@[simp] theorem State.syncDetect_cfg (g : U32) (s : State) : (s.syncDetect g).cfg = s.cfg := by
  unfold State.syncDetect; split <;> simp
@[simp] theorem State.syncDetect_input (g : U32) (s : State) : (s.syncDetect g).input = s.input := by
  unfold State.syncDetect; split <;> simp
@[simp] theorem State.syncDetect_freeUses (g : U32) (s : State) : (s.syncDetect g).freeUses = s.freeUses := by
  unfold State.syncDetect; split <;> simp

@[simp] theorem State.validate_tRise (b : Frame) (s : State) : (s.validate b).tRise = s.tRise := by
  unfold State.validate; split <;> simp
@[simp] theorem State.validate_tFall (b : Frame) (s : State) : (s.validate b).tFall = s.tFall := by
  unfold State.validate; split <;> simp
@[simp] theorem State.validate_synchronized (b : Frame) (s : State) : (s.validate b).synchronized = s.synchronized := by
  unfold State.validate; split <;> simp
@[simp] theorem State.validate_secondIndex (b : Frame) (s : State) : (s.validate b).secondIndex = s.secondIndex := by
  unfold State.validate; split <;> simp
@[simp] theorem State.validate_buf (b : Frame) (s : State) : (s.validate b).buf = s.buf := by
  unfold State.validate; split <;> simp
@[simp] theorem State.validate_indicator (b : Frame) (s : State) : (s.validate b).indicator = s.indicator := by
  unfold State.validate; split <;> simp
@[simp] theorem State.validate_edgeLevel (b : Frame) (s : State) : (s.validate b).edgeLevel = s.edgeLevel := by
  unfold State.validate; split <;> simp
@[simp] theorem State.validate_edgePending (b : Frame) (s : State) : (s.validate b).edgePending = s.edgePending := by
  unfold State.validate; split <;> simp
@[simp] theorem State.validate_pollBusy (b : Frame) (s : State) : (s.validate b).pollBusy = s.pollBusy := by
  unfold State.validate; split <;> simp
@[simp] theorem State.validate_cfg (b : Frame) (s : State) : (s.validate b).cfg = s.cfg := by
  unfold State.validate; split <;> simp
@[simp] theorem State.validate_input (b : Frame) (s : State) : (s.validate b).input = s.input := by
  unfold State.validate; split <;> simp
@[simp] theorem State.validate_freeUses (b : Frame) (s : State) : (s.validate b).freeUses = s.freeUses := by
  unfold State.validate; split <;> simp

@[simp] theorem State.complete_tRise (s : State) : (s.complete).tRise = s.tRise := by
  unfold State.complete; split <;> simp
@[simp] theorem State.complete_tFall (s : State) : (s.complete).tFall = s.tFall := by
  unfold State.complete; split <;> simp
@[simp] theorem State.complete_synchronized (s : State) : (s.complete).synchronized = s.synchronized := by
  unfold State.complete; split <;> simp
@[simp] theorem State.complete_secondIndex (s : State) : (s.complete).secondIndex = s.secondIndex := by
  unfold State.complete; split <;> simp
@[simp] theorem State.complete_buf (s : State) : (s.complete).buf = s.buf := by
  unfold State.complete; split <;> simp
@[simp] theorem State.complete_indicator (s : State) : (s.complete).indicator = s.indicator := by
  unfold State.complete; split <;> simp
@[simp] theorem State.complete_edgeLevel (s : State) : (s.complete).edgeLevel = s.edgeLevel := by
  unfold State.complete; split <;> simp
@[simp] theorem State.complete_edgePending (s : State) : (s.complete).edgePending = s.edgePending := by
  unfold State.complete; split <;> simp
@[simp] theorem State.complete_pollBusy (s : State) : (s.complete).pollBusy = s.pollBusy := by
  unfold State.complete; split <;> simp
@[simp] theorem State.complete_cfg (s : State) : (s.complete).cfg = s.cfg := by
  unfold State.complete; split <;> simp
@[simp] theorem State.complete_input (s : State) : (s.complete).input = s.input := by
  unfold State.complete; split <;> simp
@[simp] theorem State.complete_freeUses (s : State) : (s.complete).freeUses = s.freeUses := by
  unfold State.complete; split <;> simp

@[simp] theorem State.store_tRise (bit : Bool) (s : State) : (s.store bit).tRise = s.tRise := by
  unfold State.store; dsimp only; split <;> simp
@[simp] theorem State.store_tFall (bit : Bool) (s : State) : (s.store bit).tFall = s.tFall := by
  unfold State.store; dsimp only; split <;> simp
@[simp] theorem State.store_synchronized (bit : Bool) (s : State) : (s.store bit).synchronized = s.synchronized := by
  unfold State.store; dsimp only; split <;> simp
@[simp] theorem State.store_edgeLevel (bit : Bool) (s : State) : (s.store bit).edgeLevel = s.edgeLevel := by
  unfold State.store; dsimp only; split <;> simp
@[simp] theorem State.store_edgePending (bit : Bool) (s : State) : (s.store bit).edgePending = s.edgePending := by
  unfold State.store; dsimp only; split <;> simp
@[simp] theorem State.store_pollBusy (bit : Bool) (s : State) : (s.store bit).pollBusy = s.pollBusy := by
  unfold State.store; dsimp only; split <;> simp
@[simp] theorem State.store_cfg (bit : Bool) (s : State) : (s.store bit).cfg = s.cfg := by
  unfold State.store; dsimp only; split <;> simp
@[simp] theorem State.store_input (bit : Bool) (s : State) : (s.store bit).input = s.input := by
  unfold State.store; dsimp only; split <;> simp
@[simp] theorem State.store_freeUses (bit : Bool) (s : State) : (s.store bit).freeUses = s.freeUses := by
  unfold State.store; dsimp only; split <;> simp

@[simp] theorem State.accumulateBit_tRise (w : U32) (bit : Bool) (s : State) : (s.accumulateBit w bit).tRise = s.tRise := by
  unfold State.accumulateBit; repeat' split
  all_goals simp
@[simp] theorem State.accumulateBit_tFall (w : U32) (bit : Bool) (s : State) : (s.accumulateBit w bit).tFall = s.tFall := by
  unfold State.accumulateBit; repeat' split
  all_goals simp
@[simp] theorem State.accumulateBit_synchronized (w : U32) (bit : Bool) (s : State) : (s.accumulateBit w bit).synchronized = s.synchronized := by
  unfold State.accumulateBit; repeat' split
  all_goals simp
@[simp] theorem State.accumulateBit_edgeLevel (w : U32) (bit : Bool) (s : State) : (s.accumulateBit w bit).edgeLevel = s.edgeLevel := by
  unfold State.accumulateBit; repeat' split
  all_goals simp
@[simp] theorem State.accumulateBit_edgePending (w : U32) (bit : Bool) (s : State) : (s.accumulateBit w bit).edgePending = s.edgePending := by
  unfold State.accumulateBit; repeat' split
  all_goals simp
@[simp] theorem State.accumulateBit_pollBusy (w : U32) (bit : Bool) (s : State) : (s.accumulateBit w bit).pollBusy = s.pollBusy := by
  unfold State.accumulateBit; repeat' split
  all_goals simp
@[simp] theorem State.accumulateBit_cfg (w : U32) (bit : Bool) (s : State) : (s.accumulateBit w bit).cfg = s.cfg := by
  unfold State.accumulateBit; repeat' split
  all_goals simp
@[simp] theorem State.accumulateBit_input (w : U32) (bit : Bool) (s : State) : (s.accumulateBit w bit).input = s.input := by
  unfold State.accumulateBit; repeat' split
  all_goals simp
@[simp] theorem State.accumulateBit_freeUses (w : U32) (bit : Bool) (s : State) : (s.accumulateBit w bit).freeUses = s.freeUses := by
  unfold State.accumulateBit; repeat' split
  all_goals simp

@[simp] theorem State.accumulate_tRise (w : U32) (c : PulseClass) (s : State) : (s.accumulate w c).tRise = s.tRise := by
  cases c <;> simp [State.accumulate]
@[simp] theorem State.accumulate_tFall (w : U32) (c : PulseClass) (s : State) : (s.accumulate w c).tFall = s.tFall := by
  cases c <;> simp [State.accumulate]
@[simp] theorem State.accumulate_synchronized (w : U32) (c : PulseClass) (s : State) : (s.accumulate w c).synchronized = s.synchronized := by
  cases c <;> simp [State.accumulate]
@[simp] theorem State.accumulate_edgeLevel (w : U32) (c : PulseClass) (s : State) : (s.accumulate w c).edgeLevel = s.edgeLevel := by
  cases c <;> simp [State.accumulate]
@[simp] theorem State.accumulate_edgePending (w : U32) (c : PulseClass) (s : State) : (s.accumulate w c).edgePending = s.edgePending := by
  cases c <;> simp [State.accumulate]
@[simp] theorem State.accumulate_pollBusy (w : U32) (c : PulseClass) (s : State) : (s.accumulate w c).pollBusy = s.pollBusy := by
  cases c <;> simp [State.accumulate]
@[simp] theorem State.accumulate_cfg (w : U32) (c : PulseClass) (s : State) : (s.accumulate w c).cfg = s.cfg := by
  cases c <;> simp [State.accumulate]
@[simp] theorem State.accumulate_input (w : U32) (c : PulseClass) (s : State) : (s.accumulate w c).input = s.input := by
  cases c <;> simp [State.accumulate]
@[simp] theorem State.accumulate_freeUses (w : U32) (c : PulseClass) (s : State) : (s.accumulate w c).freeUses = s.freeUses := by
  cases c <;> simp [State.accumulate]

@[simp] theorem State.edgeRise_tFall (now : U32) (s : State) : (s.edgeRise now).tFall = s.tFall := by
  unfold State.edgeRise; dsimp only; split <;> simp
@[simp] theorem State.edgeRise_indicator (now : U32) (s : State) : (s.edgeRise now).indicator = s.indicator := by
  unfold State.edgeRise; dsimp only; split <;> simp
@[simp] theorem State.edgeRise_tg (now : U32) (s : State) : (s.edgeRise now).tg = s.tg := by
  unfold State.edgeRise; dsimp only; split <;> simp
@[simp] theorem State.edgeRise_telegramFresh (now : U32) (s : State) : (s.edgeRise now).telegramFresh = s.telegramFresh := by
  unfold State.edgeRise; dsimp only; split <;> simp
@[simp] theorem State.edgeRise_edgeLevel (now : U32) (s : State) : (s.edgeRise now).edgeLevel = s.edgeLevel := by
  unfold State.edgeRise; dsimp only; split <;> simp
@[simp] theorem State.edgeRise_edgePending (now : U32) (s : State) : (s.edgeRise now).edgePending = s.edgePending := by
  unfold State.edgeRise; dsimp only; split <;> simp
@[simp] theorem State.edgeRise_pollBusy (now : U32) (s : State) : (s.edgeRise now).pollBusy = s.pollBusy := by
  unfold State.edgeRise; dsimp only; split <;> simp
@[simp] theorem State.edgeRise_cfg (now : U32) (s : State) : (s.edgeRise now).cfg = s.cfg := by
  unfold State.edgeRise; dsimp only; split <;> simp
@[simp] theorem State.edgeRise_input (now : U32) (s : State) : (s.edgeRise now).input = s.input := by
  unfold State.edgeRise; dsimp only; split <;> simp
@[simp] theorem State.edgeRise_freeUses (now : U32) (s : State) : (s.edgeRise now).freeUses = s.freeUses := by
  unfold State.edgeRise; dsimp only; split <;> simp

@[simp] theorem State.edgeFall_tRise (now : U32) (s : State) : (s.edgeFall now).tRise = s.tRise := by
  unfold State.edgeFall; dsimp only; split <;> simp
@[simp] theorem State.edgeFall_synchronized (now : U32) (s : State) : (s.edgeFall now).synchronized = s.synchronized := by
  unfold State.edgeFall; dsimp only; split <;> simp
@[simp] theorem State.edgeFall_edgeLevel (now : U32) (s : State) : (s.edgeFall now).edgeLevel = s.edgeLevel := by
  unfold State.edgeFall; dsimp only; split <;> simp
@[simp] theorem State.edgeFall_edgePending (now : U32) (s : State) : (s.edgeFall now).edgePending = s.edgePending := by
  unfold State.edgeFall; dsimp only; split <;> simp
@[simp] theorem State.edgeFall_pollBusy (now : U32) (s : State) : (s.edgeFall now).pollBusy = s.pollBusy := by
  unfold State.edgeFall; dsimp only; split <;> simp
@[simp] theorem State.edgeFall_cfg (now : U32) (s : State) : (s.edgeFall now).cfg = s.cfg := by
  unfold State.edgeFall; dsimp only; split <;> simp
@[simp] theorem State.edgeFall_input (now : U32) (s : State) : (s.edgeFall now).input = s.input := by
  unfold State.edgeFall; dsimp only; split <;> simp
@[simp] theorem State.edgeFall_freeUses (now : U32) (s : State) : (s.edgeFall now).freeUses = s.freeUses := by
  unfold State.edgeFall; dsimp only; split <;> simp

@[simp] theorem State.edge_edgeLevel (level : Bool) (now : U32) (s : State) : (s.edge level now).edgeLevel = s.edgeLevel := by
  cases level <;> simp [State.edge]
@[simp] theorem State.edge_edgePending (level : Bool) (now : U32) (s : State) : (s.edge level now).edgePending = s.edgePending := by
  cases level <;> simp [State.edge]
@[simp] theorem State.edge_pollBusy (level : Bool) (now : U32) (s : State) : (s.edge level now).pollBusy = s.pollBusy := by
  cases level <;> simp [State.edge]
@[simp] theorem State.edge_cfg (level : Bool) (now : U32) (s : State) : (s.edge level now).cfg = s.cfg := by
  cases level <;> simp [State.edge]
@[simp] theorem State.edge_input (level : Bool) (now : U32) (s : State) : (s.edge level now).input = s.input := by
  cases level <;> simp [State.edge]
@[simp] theorem State.edge_freeUses (level : Bool) (now : U32) (s : State) : (s.edge level now).freeUses = s.freeUses := by
  cases level <;> simp [State.edge]

@[simp] theorem State.edgeRise_tRise (now : U32) (s : State) : (s.edgeRise now).tRise = some now := rfl

@[simp] theorem State.edgeFall_tFall (now : U32) (s : State) : (s.edgeFall now).tFall = some now := rfl

/-! ### `Complete` and `Store`, case by case -/

theorem State.validate_of_ok (b : Frame) (s : State) (h : parityOK s.cfg.parityMode b = true) :
    s.validate b = s.assemble b := by
  simp [State.validate, h]

theorem State.validate_of_bad (b : Frame) (s : State) (h : parityOK s.cfg.parityMode b = false) :
    s.validate b = s.signal (.parityFailure (okMinutes b) (okHours b) (okDate b)) := by
  simp [State.validate, h]

theorem State.complete_of_toBits (b : Frame) (s : State) (h : Memory.toBits s.buf = some b) :
    s.complete = s.validate b := by
  simp [State.complete, h]

theorem State.complete_of_gap (s : State) (h : Memory.toBits s.buf = none) : s.complete = s := by
  simp [State.complete, h]

theorem State.store_of_lt (bit : Bool) (s : State) (h : s.secondIndex.toNat < 58) :
    s.store bit = s.storeBit bit := by
  have : (s.secondIndex + 1).toNat ≠ 59 := by
    rw [BitVec.toNat_add]
    simp
    omega
  unfold State.store
  exact if_neg this

theorem State.store_of_last (bit : Bool) (s : State) (h : s.secondIndex.toNat = 58) :
    s.store bit = (s.storeBit bit).complete := by
  have : (s.secondIndex + 1).toNat = 59 := by
    rw [BitVec.toNat_add]
    simp
    omega
  unfold State.store
  exact if_pos this

/-- The frame `ToBits` gives after the last bit is stored. -/
theorem State.toBits_storeBit_last (bit : Bool) (s : State) (b : Frame) (h : s.secondIndex.toNat = 58) :
    Memory.toBits (s.storeBit bit).buf = some b ↔
      b.getLsbD 58 = bit ∧ ∀ i, i < 58 → Memory.read s.buf i = Symbol.ofBit (b.getLsbD i) := by
  rw [Memory.toBits_eq_some, State.storeBit_buf, h]
  constructor
  · intro hb
    refine ⟨?_, fun i hi => ?_⟩
    · have := hb 58 (by omega)
      rw [Memory.read_bufWrite_self _ _ _ (by omega) (Symbol.ofBit_ne_unset bit)] at this
      have h2 := congrArg Symbol.bit this
      simp only [Symbol.bit_ofBit, Option.some.injEq] at h2
      exact h2.symm
    · rw [← hb i (by omega), Memory.read_bufWrite_other _ _ _ _ (Symbol.ofBit_ne_unset bit) (by omega)]
  · rintro ⟨hlast, hrest⟩ i hi
    by_cases h58 : i = 58
    · subst h58
      rw [Memory.read_bufWrite_self _ _ _ (by omega) (Symbol.ofBit_ne_unset bit), hlast]
    · rw [Memory.read_bufWrite_other _ _ _ _ (Symbol.ofBit_ne_unset bit) h58, hrest i (by omega)]

/-- All that `Store` can do with an index of at most 58. -/
theorem State.store_cases (bit : Bool) (s : State) (h : s.secondIndex.toNat < 59) :
    (s.secondIndex.toNat < 58 ∧ s.store bit = s.storeBit bit) ∨
    (s.secondIndex.toNat = 58 ∧ Memory.toBits (s.storeBit bit).buf = none ∧ s.store bit = s.storeBit bit) ∨
    (∃ b, s.secondIndex.toNat = 58 ∧ Memory.toBits (s.storeBit bit).buf = some b ∧
      parityOK s.cfg.parityMode b = true ∧ s.store bit = (s.storeBit bit).assemble b) ∨
    (∃ b, s.secondIndex.toNat = 58 ∧ Memory.toBits (s.storeBit bit).buf = some b ∧
      parityOK s.cfg.parityMode b = false ∧
      s.store bit = (s.storeBit bit).signal (.parityFailure (okMinutes b) (okHours b) (okDate b))) := by
  rcases Nat.lt_or_ge s.secondIndex.toNat 58 with hlt | hge
  · exact .inl ⟨hlt, State.store_of_lt bit s hlt⟩
  have h58 : s.secondIndex.toNat = 58 := by omega
  have hst := State.store_of_last bit s h58
  obtain hb | ⟨b, hb⟩ := Option.eq_none_or_eq_some (Memory.toBits (s.storeBit bit).buf)
  · rw [State.complete_of_gap _ hb] at hst
    exact .inr (.inl ⟨h58, hb, hst⟩)
  rw [State.complete_of_toBits b _ hb] at hst
  by_cases hp : parityOK s.cfg.parityMode b = true
  · rw [State.validate_of_ok b _ (by simpa using hp)] at hst
    exact .inr (.inr (.inl ⟨b, h58, hb, hp, hst⟩))
  · have hp' : parityOK s.cfg.parityMode b = false := by simpa using hp
    rw [State.validate_of_bad b _ (by simpa using hp')] at hst
    exact .inr (.inr (.inr ⟨b, h58, hb, hp', hst⟩))

/-! ### The accumulator and the two edges, case by case -/

@[simp] theorem State.accumulate_ofBit (w : U32) (bit : Bool) (s : State) :
    s.accumulate w (PulseClass.ofBit bit) = s.accumulateBit w bit := by
  cases bit <;> rfl

/-- Every class is `Unrecognized` or recognizes a bit. -/
theorem PulseClass.cases_bit (c : PulseClass) : c = .unrecognized ∨ ∃ bit, c = PulseClass.ofBit bit := by
  cases c
  · exact .inr ⟨false, rfl⟩
  · exact .inr ⟨true, rfl⟩
  · exact .inl rfl

@[simp] theorem PulseClass.ofBit_ne_unrecognized (bit : Bool) : PulseClass.ofBit bit ≠ .unrecognized := by
  cases bit <;> decide

theorem State.accumulateBit_acquiring (w : U32) (bit : Bool) (s : State) (h : s.synchronized = false) :
    s.accumulateBit w bit = State.signal (.acquiringEcho w bit) { s with out := { s.out with tap := .star } } := by
  simp [State.accumulateBit, h]

theorem State.accumulateBit_overrun (w : U32) (bit : Bool) (s : State) (h : s.synchronized = true)
    (hi : 59 ≤ s.secondIndex.toNat) : s.accumulateBit w bit = s.signal (.overrun w bit) := by
  simp [State.accumulateBit, h, hi]

theorem State.accumulateBit_store (w : U32) (bit : Bool) (s : State) (h : s.synchronized = true)
    (hi : s.secondIndex.toNat < 59) : s.accumulateBit w bit = s.store bit := by
  have : ¬ 59 ≤ s.secondIndex.toNat := by omega
  simp [State.accumulateBit, h, this]

/-- All that `EDGE.RISE` can do. -/
theorem State.edgeRise_cases (now : U32) (s : State) :
    (s.tFall = none ∧ s.edgeRise now = { s.signal .noMeasurement with tRise := some now }) ∨
    (∃ f, s.tFall = some f ∧ isSyncGap s.cfg (sub32 now f) = true ∧
      s.edgeRise now = { s.syncFire (sub32 now f) with tRise := some now }) ∨
    (∃ f, s.tFall = some f ∧ isSyncGap s.cfg (sub32 now f) = false ∧
      s.edgeRise now = { s.syncIdle (sub32 now f) with tRise := some now }) := by
  cases hf : s.tFall with
  | none => exact .inl ⟨rfl, by simp [State.edgeRise, State.measureGap, hf]⟩
  | some f =>
    cases hg : isSyncGap s.cfg (sub32 now f)
    · exact .inr (.inr ⟨f, rfl, hg, by simp [State.edgeRise, State.measureGap, hf, State.syncDetect, hg]⟩)
    · exact .inr (.inl ⟨f, rfl, hg, by simp [State.edgeRise, State.measureGap, hf, State.syncDetect, hg]⟩)

/-- `EDGE.FALL` with a measured pulse. -/
theorem State.edgeFall_some (now r : U32) (s : State) (h : s.tRise = some r) :
    s.edgeFall now =
      { s.accumulate (sub32 now r) (classify s.cfg (sub32 now r)) with tFall := some now } := by
  simp [State.edgeFall, State.measurePulse, h]

/-- All that `EDGE.FALL` can do. -/
theorem State.edgeFall_cases (now : U32) (s : State) :
    (s.tRise = none ∧ s.edgeFall now = { s.signal .noMeasurement with tFall := some now }) ∨
    (∃ r, s.tRise = some r ∧ classify s.cfg (sub32 now r) = .unrecognized ∧
      s.edgeFall now = { s.signal (.unrecognizedWidth (sub32 now r)) with tFall := some now }) ∨
    (∃ r bit, s.tRise = some r ∧ classify s.cfg (sub32 now r) = PulseClass.ofBit bit ∧ s.synchronized = false ∧
      s.edgeFall now = { State.signal (.acquiringEcho (sub32 now r) bit)
        { s with out := { s.out with tap := .star } } with tFall := some now }) ∨
    (∃ r bit, s.tRise = some r ∧ classify s.cfg (sub32 now r) = PulseClass.ofBit bit ∧ s.synchronized = true ∧
      59 ≤ s.secondIndex.toNat ∧
      s.edgeFall now = { s.signal (.overrun (sub32 now r) bit) with tFall := some now }) ∨
    (∃ r bit, s.tRise = some r ∧ classify s.cfg (sub32 now r) = PulseClass.ofBit bit ∧ s.synchronized = true ∧
      s.secondIndex.toNat < 59 ∧ s.edgeFall now = { s.store bit with tFall := some now }) := by
  obtain hr | ⟨r, hr⟩ := Option.eq_none_or_eq_some s.tRise
  · exact .inl ⟨hr, by simp [State.edgeFall, State.measurePulse, hr]⟩
  have heq := State.edgeFall_some now r s hr
  rcases PulseClass.cases_bit (classify s.cfg (sub32 now r)) with hc | ⟨bit, hc⟩
  · rw [hc] at heq
    exact .inr (.inl ⟨r, hr, hc, heq⟩)
  · rw [hc, State.accumulate_ofBit] at heq
    by_cases hs : s.synchronized = false
    · rw [State.accumulateBit_acquiring _ _ _ hs] at heq
      exact .inr (.inr (.inl ⟨r, bit, hr, hc, hs, heq⟩))
    · have hs' : s.synchronized = true := by simpa using hs
      by_cases hi : 59 ≤ s.secondIndex.toNat
      · rw [State.accumulateBit_overrun _ _ _ hs' hi] at heq
        exact .inr (.inr (.inr (.inl ⟨r, bit, hr, hc, hs', hi, heq⟩)))
      · have hi' : s.secondIndex.toNat < 59 := by omega
        rw [State.accumulateBit_store _ _ _ hs' hi'] at heq
        exact .inr (.inr (.inr (.inr ⟨r, bit, hr, hc, hs', hi', heq⟩)))

end Sys2Proof.Machine
end

