-- ==== Sys2Proof/Laws/Step.lean ====
section
/-! SUPPORT. What each operation answers, and all that a step can do. -/

namespace Sys2Proof.Machine

/-! ### The operations -/

theorem exec_edgeRise (now : U32) (s : State) : exec (.edgeRise now) s = .next (s.startOp.edgeRise now) := rfl

theorem exec_edgeFall (now : U32) (s : State) : exec (.edgeFall now) s = .next (s.startOp.edgeFall now) := rfl

theorem exec_take (s : State) :
    exec .take s = .next (State.signal .taken { s.startOp with telegramFresh := false }) := rfl

theorem exec_reset (s : State) : exec .reset s = .next (State.signal .resetDone s.startOp.resetRegisters) := rfl

theorem exec_capture (level : Bool) (s : State) :
    exec (.capture level) s = .next { s.startOp with edgeLevel := level, edgePending := true } := rfl

theorem exec_telegram_invoked (b : Frame) (s : State)
    (h : Memory.toBits s.buf = some b ∧ parityOK s.cfg.parityMode b = true) :
    exec (.telegram b) s = .next (s.startOp.assemble b) :=
  if_pos h

theorem exec_telegram_not_invoked (b : Frame) (s : State)
    (h : ¬ (Memory.toBits s.buf = some b ∧ parityOK s.cfg.parityMode b = true)) :
    exec (.telegram b) s = .next s.startOp :=
  if_neg h

theorem exec_pollBegin_pending (now : U32) (s : State) (hb : s.pollBusy = false) (hp : s.edgePending = true) :
    exec (.pollBegin now) s = .next { s.startOp.edge s.edgeLevel now with pollBusy := true } :=
  if_pos ⟨hb, hp⟩

theorem exec_pollBegin_nothing (now : U32) (s : State) (h : ¬ (s.pollBusy = false ∧ s.edgePending = true)) :
    exec (.pollBegin now) s = .next (s.startOp.signal .nothingPending) :=
  if_neg h

theorem exec_pollEnd_busy (s : State) (h : s.pollBusy = true) :
    exec .pollEnd s = .next { s.startOp with edgePending := false, pollBusy := false } :=
  if_pos h

theorem exec_pollEnd_nothing (s : State) (h : s.pollBusy = false) :
    exec .pollEnd s = .next (s.startOp.signal .nothingToEnd) :=
  if_neg (by simp [h])

/-- All that an operation can do: its own effect, or (for the two poll operations and `TELEGRAM`) nothing but a
label, or nothing. -/
theorem exec_cases (i : Instr) (s t : State) (h : exec i s = .next t) :
    (∃ now, i = .edgeRise now ∧ t = s.startOp.edgeRise now) ∨
    (∃ now, i = .edgeFall now ∧ t = s.startOp.edgeFall now) ∨
    (i = .take ∧ t = State.signal .taken { s.startOp with telegramFresh := false }) ∨
    (i = .reset ∧ t = State.signal .resetDone s.startOp.resetRegisters) ∨
    (∃ level, i = .capture level ∧ t = { s.startOp with edgeLevel := level, edgePending := true }) ∨
    (∃ now, i = .pollBegin now ∧ s.pollBusy = false ∧ s.edgePending = true ∧
      t = { s.startOp.edge s.edgeLevel now with pollBusy := true }) ∨
    (∃ now, i = .pollBegin now ∧ ¬ (s.pollBusy = false ∧ s.edgePending = true) ∧
      t = s.startOp.signal .nothingPending) ∨
    (i = .pollEnd ∧ s.pollBusy = true ∧ t = { s.startOp with edgePending := false, pollBusy := false }) ∨
    (i = .pollEnd ∧ s.pollBusy = false ∧ t = s.startOp.signal .nothingToEnd) ∨
    (∃ b, i = .telegram b ∧ Memory.toBits s.buf = some b ∧ parityOK s.cfg.parityMode b = true ∧
      t = s.startOp.assemble b) ∨
    (∃ b, i = .telegram b ∧ ¬ (Memory.toBits s.buf = some b ∧ parityOK s.cfg.parityMode b = true) ∧
      t = s.startOp) := by
  cases i with
  | edgeRise now => exact .inl ⟨now, rfl, (Host.Outcome.next.inj h).symm⟩
  | edgeFall now => exact .inr (.inl ⟨now, rfl, (Host.Outcome.next.inj h).symm⟩)
  | take => exact .inr (.inr (.inl ⟨rfl, (Host.Outcome.next.inj h).symm⟩))
  | reset => exact .inr (.inr (.inr (.inl ⟨rfl, (Host.Outcome.next.inj h).symm⟩)))
  | capture level => exact .inr (.inr (.inr (.inr (.inl ⟨level, rfl, (Host.Outcome.next.inj h).symm⟩))))
  | pollBegin now =>
    by_cases hc : s.pollBusy = false ∧ s.edgePending = true
    · rw [exec_pollBegin_pending now s hc.1 hc.2] at h
      exact .inr (.inr (.inr (.inr (.inr (.inl ⟨now, rfl, hc.1, hc.2, (Host.Outcome.next.inj h).symm⟩)))))
    · rw [exec_pollBegin_nothing now s hc] at h
      exact .inr (.inr (.inr (.inr (.inr (.inr (.inl ⟨now, rfl, hc, (Host.Outcome.next.inj h).symm⟩))))))
  | pollEnd =>
    cases hb : s.pollBusy
    · rw [exec_pollEnd_nothing s hb] at h
      exact .inr (.inr (.inr (.inr (.inr (.inr (.inr (.inr (.inl ⟨rfl, rfl, (Host.Outcome.next.inj h).symm⟩))))))))
    · rw [exec_pollEnd_busy s hb] at h
      exact .inr (.inr (.inr (.inr (.inr (.inr (.inr (.inl ⟨rfl, rfl, (Host.Outcome.next.inj h).symm⟩)))))))
  | telegram b =>
    by_cases hc : Memory.toBits s.buf = some b ∧ parityOK s.cfg.parityMode b = true
    · rw [exec_telegram_invoked b s hc] at h
      exact .inr (.inr (.inr (.inr (.inr (.inr (.inr (.inr (.inr (.inl
        ⟨b, rfl, hc.1, hc.2, (Host.Outcome.next.inj h).symm⟩)))))))))
    · rw [exec_telegram_not_invoked b s hc] at h
      exact .inr (.inr (.inr (.inr (.inr (.inr (.inr (.inr (.inr (.inr
        ⟨b, rfl, hc, (Host.Outcome.next.inj h).symm⟩)))))))))

/-! ### The step -/

/-- All that a step can do: wait with nothing presented, pass over a word that is no operation, or perform one. -/
theorem step_cases (s : State) :
    (s.input = [] ∧ step s = .next s.startOp) ∨
    (∃ p rest e, s.input = p :: rest ∧ decode p = .error e ∧
      step s = .next (State.startOp { s with input := rest })) ∨
    (∃ p rest i, s.input = p :: rest ∧ decode p = .ok i ∧ step s = exec i { s with input := rest }) := by
  cases hin : s.input with
  | nil => exact .inl ⟨rfl, by simp [step, State.fetch, hin]⟩
  | cons p rest =>
    cases hd : decode p with
    | error e => exact .inr (.inl ⟨p, rest, e, rfl, hd, by simp [step, State.fetch, hin, hd]⟩)
    | ok i => exact .inr (.inr ⟨p, rest, i, rfl, hd, by simp [step, State.fetch, hin, hd]⟩)

end Sys2Proof.Machine
end

