-- ==== Sys2Proof/Laws/Effects.lean ====
section
/-! SUPPORT. Everything one operation can do to the state, said once over all eight operations, with what the step
measured; the whole-machine rules are case analyses over `exec_effect`. -/

namespace Sys2Proof.Machine

theorem State.gapMeasured_of_no_edge {s : State} {i : Instr} (h : s.edgeOf i = none) : s.gapMeasured i = none := by
  simp [State.gapMeasured, h]

theorem State.pulseMeasured_of_no_edge {s : State} {i : Instr} (h : s.edgeOf i = none) : s.pulseMeasured i = none := by
  simp [State.pulseMeasured, h]

/-- What an operation performs: an `EDGE` (its own or the mailbox's; only `pollBusy` tells them apart afterwards), or
one of the operations that perform none. -/
theorem exec_edge_or_not (i : Instr) (s t : State) (h : exec i s = .next t) :
    (∃ now, s.edgeOf i = some (true, now) ∧ i ≠ .reset ∧ i ≠ .take ∧
      ∃ busy, t = { s.startOp.edgeRise now with pollBusy := busy }) ∨
    (∃ now, s.edgeOf i = some (false, now) ∧ i ≠ .reset ∧ i ≠ .take ∧
      ∃ busy, t = { s.startOp.edgeFall now with pollBusy := busy }) ∨
    (s.edgeOf i = none ∧ i = .take ∧ t = State.signal .taken { s.startOp with telegramFresh := false }) ∨
    (s.edgeOf i = none ∧ i = .reset ∧ t = State.signal .resetDone s.startOp.resetRegisters) ∨
    (s.edgeOf i = none ∧ i ≠ .reset ∧ i ≠ .take ∧
      ∃ level pending busy, t = { s.startOp with edgeLevel := level, edgePending := pending, pollBusy := busy }) ∨
    (s.edgeOf i = none ∧ i ≠ .reset ∧ i ≠ .take ∧
      (t = s.startOp.signal .nothingPending ∨ t = s.startOp.signal .nothingToEnd)) ∨
    (s.edgeOf i = none ∧ ∃ b, i = .telegram b ∧
      ((Memory.toBits s.buf = some b ∧ parityOK s.cfg.parityMode b = true ∧ t = s.startOp.assemble b) ∨
        t = s.startOp)) := by
  rcases exec_cases i s t h with ⟨now, rfl, rfl⟩ | ⟨now, rfl, rfl⟩ | ⟨rfl, rfl⟩ | ⟨rfl, rfl⟩ | ⟨level, rfl, rfl⟩ |
    ⟨now, rfl, hb, hp, rfl⟩ | ⟨now, rfl, hn, rfl⟩ | ⟨rfl, _, rfl⟩ | ⟨rfl, _, rfl⟩ |
    ⟨b, rfl, hb, hp, rfl⟩ | ⟨b, rfl, _, rfl⟩
  · exact .inl ⟨now, rfl, by simp, by simp, _, rfl⟩
  · exact .inr (.inl ⟨now, rfl, by simp, by simp, _, rfl⟩)
  · exact .inr (.inr (.inl ⟨rfl, rfl, rfl⟩))
  · exact .inr (.inr (.inr (.inl ⟨rfl, rfl, rfl⟩)))
  · exact .inr (.inr (.inr (.inr (.inl ⟨rfl, by simp, by simp, _, _, _, rfl⟩))))
  · cases hl : s.edgeLevel
    · exact .inr (.inl ⟨now, by simp [State.edgeOf, hb, hp, hl], by simp, by simp, true, by simp [State.edge]⟩)
    · exact .inl ⟨now, by simp [State.edgeOf, hb, hp, hl], by simp, by simp, true, by simp [State.edge]⟩
  · exact .inr (.inr (.inr (.inr (.inr (.inl
      ⟨by simp only [State.edgeOf, if_neg hn], by simp, by simp, .inl rfl⟩)))))
  · exact .inr (.inr (.inr (.inr (.inl ⟨rfl, by simp, by simp, _, _, _, rfl⟩))))
  · exact .inr (.inr (.inr (.inr (.inr (.inl ⟨rfl, by simp, by simp, .inr rfl⟩)))))
  · exact .inr (.inr (.inr (.inr (.inr (.inr ⟨rfl, b, rfl, .inl ⟨hb, hp, rfl⟩⟩)))))
  · exact .inr (.inr (.inr (.inr (.inr (.inr ⟨rfl, b, rfl, .inr rfl⟩)))))

/-- The effects, one constructor per case of the rules. -/
inductive Effect (s : State) (i : Instr) : State → Prop
  | riseUnmeasured (now : U32) (busy : Bool) (he : s.edgeOf i = some (true, now)) (hr : i ≠ .reset) (ht : i ≠ .take)
      (hg : s.gapMeasured i = none) (hw : s.pulseMeasured i = none) :
      Effect s i { State.signal .noMeasurement s.startOp with tRise := some now, pollBusy := busy }
  | riseSync (now g : U32) (busy : Bool) (he : s.edgeOf i = some (true, now)) (hr : i ≠ .reset) (ht : i ≠ .take)
      (hg : s.gapMeasured i = some g) (hw : s.pulseMeasured i = none) (hs : isSyncGap s.cfg g = true) :
      Effect s i { State.syncFire g s.startOp with tRise := some now, pollBusy := busy }
  | riseIdle (now g : U32) (busy : Bool) (he : s.edgeOf i = some (true, now)) (hr : i ≠ .reset) (ht : i ≠ .take)
      (hg : s.gapMeasured i = some g) (hw : s.pulseMeasured i = none) (hs : isSyncGap s.cfg g = false) :
      Effect s i { State.syncIdle g s.startOp with tRise := some now, pollBusy := busy }
  | fallUnmeasured (now : U32) (busy : Bool) (he : s.edgeOf i = some (false, now)) (hr : i ≠ .reset) (ht : i ≠ .take)
      (hg : s.gapMeasured i = none) (hw : s.pulseMeasured i = none) :
      Effect s i { State.signal .noMeasurement s.startOp with tFall := some now, pollBusy := busy }
  | fallUnrecognized (now w : U32) (busy : Bool) (he : s.edgeOf i = some (false, now)) (hr : i ≠ .reset)
      (ht : i ≠ .take) (hg : s.gapMeasured i = none) (hw : s.pulseMeasured i = some w)
      (hc : classify s.cfg w = .unrecognized) :
      Effect s i { State.signal (.unrecognizedWidth w) s.startOp with tFall := some now, pollBusy := busy }
  | fallAcquiring (now w : U32) (bit busy : Bool) (he : s.edgeOf i = some (false, now)) (hr : i ≠ .reset)
      (ht : i ≠ .take) (hg : s.gapMeasured i = none) (hw : s.pulseMeasured i = some w)
      (hc : classify s.cfg w = .ofBit bit) (hs : s.synchronized = false) :
      Effect s i { State.signal (.acquiringEcho w bit) { s.startOp with out := { tap := .star } } with
        tFall := some now, pollBusy := busy }
  | fallOverrun (now w : U32) (bit busy : Bool) (he : s.edgeOf i = some (false, now)) (hr : i ≠ .reset)
      (ht : i ≠ .take) (hg : s.gapMeasured i = none) (hw : s.pulseMeasured i = some w)
      (hc : classify s.cfg w = .ofBit bit) (hs : s.synchronized = true) (hi : 59 ≤ s.secondIndex.toNat) :
      Effect s i { State.signal (.overrun w bit) s.startOp with tFall := some now, pollBusy := busy }
  | fallStore (now w : U32) (bit busy : Bool) (he : s.edgeOf i = some (false, now)) (hr : i ≠ .reset)
      (ht : i ≠ .take) (hg : s.gapMeasured i = none) (hw : s.pulseMeasured i = some w)
      (hc : classify s.cfg w = .ofBit bit) (hs : s.synchronized = true) (hi : s.secondIndex.toNat < 59) :
      Effect s i { State.storeBit bit s.startOp with tFall := some now, pollBusy := busy }
  | fallAssemble (now w : U32) (bit : Bool) (b : Frame) (busy : Bool) (he : s.edgeOf i = some (false, now))
      (hr : i ≠ .reset) (ht : i ≠ .take) (hg : s.gapMeasured i = none) (hw : s.pulseMeasured i = some w)
      (hc : classify s.cfg w = .ofBit bit) (hs : s.synchronized = true) (hi : s.secondIndex.toNat = 58) :
      Effect s i { State.assemble b (State.storeBit bit s.startOp) with tFall := some now, pollBusy := busy }
  | fallParityFailure (now w : U32) (bit : Bool) (b : Frame) (busy : Bool) (he : s.edgeOf i = some (false, now))
      (hr : i ≠ .reset) (ht : i ≠ .take) (hg : s.gapMeasured i = none) (hw : s.pulseMeasured i = some w)
      (hc : classify s.cfg w = .ofBit bit) (hs : s.synchronized = true) (hi : s.secondIndex.toNat = 58) :
      Effect s i { State.signal (.parityFailure (okMinutes b) (okHours b) (okDate b)) (State.storeBit bit s.startOp) with
        tFall := some now, pollBusy := busy }
  | take (ht : i = .take) (he : s.edgeOf i = none) (hg : s.gapMeasured i = none) (hw : s.pulseMeasured i = none) :
      Effect s i (State.signal .taken { s.startOp with telegramFresh := false })
  | reset (hr : i = .reset) (he : s.edgeOf i = none) (hg : s.gapMeasured i = none) (hw : s.pulseMeasured i = none) :
      Effect s i (State.signal .resetDone s.startOp.resetRegisters)
  | mailbox (level pending busy : Bool) (he : s.edgeOf i = none) (hr : i ≠ .reset) (ht : i ≠ .take)
      (hg : s.gapMeasured i = none) (hw : s.pulseMeasured i = none) :
      Effect s i { s.startOp with edgeLevel := level, edgePending := pending, pollBusy := busy }
  | nothingPending (he : s.edgeOf i = none) (hr : i ≠ .reset) (ht : i ≠ .take) (hg : s.gapMeasured i = none)
      (hw : s.pulseMeasured i = none) : Effect s i (s.startOp.signal .nothingPending)
  | nothingToEnd (he : s.edgeOf i = none) (hr : i ≠ .reset) (ht : i ≠ .take) (hg : s.gapMeasured i = none)
      (hw : s.pulseMeasured i = none) : Effect s i (s.startOp.signal .nothingToEnd)
  | frameAssembled (b : Frame) (hi : i = .telegram b) (hb : Memory.toBits s.buf = some b)
      (hp : parityOK s.cfg.parityMode b = true) (he : s.edgeOf i = none) (hr : i ≠ .reset) (ht : i ≠ .take)
      (hg : s.gapMeasured i = none) (hw : s.pulseMeasured i = none) : Effect s i (s.startOp.assemble b)
  | frameNotInvoked (b : Frame) (hi : i = .telegram b) (he : s.edgeOf i = none) (hr : i ≠ .reset) (ht : i ≠ .take)
      (hg : s.gapMeasured i = none) (hw : s.pulseMeasured i = none) : Effect s i s.startOp

/-- Every operation that answers a next state has one of the effects. -/
theorem exec_effect {i : Instr} {s t : State} (h : exec i s = .next t) : Effect s i t := by
  rcases exec_edge_or_not i s t h with ⟨now, he, h1, h2, busy, rfl⟩ | ⟨now, he, h1, h2, busy, rfl⟩ | ⟨he, rfl, rfl⟩ |
    ⟨he, rfl, rfl⟩ | ⟨he, h1, h2, level, pending, busy, rfl⟩ | ⟨he, h1, h2, rfl | rfl⟩ |
    ⟨he, b, rfl, ⟨hb, hp, rfl⟩ | rfl⟩
  · have hw : s.pulseMeasured i = none := by simp [State.pulseMeasured, he]
    rcases State.edgeRise_cases now s.startOp with ⟨hf, h'⟩ | ⟨f, hf, hg, h'⟩ | ⟨f, hf, hg, h'⟩ <;> rw [h']
    · exact .riseUnmeasured now busy he h1 h2 (by simp at hf; simp [State.gapMeasured, he, hf]) hw
    · exact .riseSync now _ busy he h1 h2 (by simp at hf; simp [State.gapMeasured, he, hf]) hw (by simpa using hg)
    · exact .riseIdle now _ busy he h1 h2 (by simp at hf; simp [State.gapMeasured, he, hf]) hw (by simpa using hg)
  · have hg : s.gapMeasured i = none := by simp [State.gapMeasured, he]
    have hw : ∀ r, s.startOp.tRise = some r → s.pulseMeasured i = some (sub32 now r) := by
      intro r hr; simp at hr; simp [State.pulseMeasured, he, hr]
    rcases State.edgeFall_cases now s.startOp with ⟨hr, h'⟩ | ⟨r, hr, hc, h'⟩ | ⟨r, bit, hr, hc, hs, h'⟩ |
      ⟨r, bit, hr, hc, hs, hi, h'⟩ | ⟨r, bit, hr, hc, hs, hlt, h'⟩ <;> rw [h']
    · exact .fallUnmeasured now busy he h1 h2 hg (by simp at hr; simp [State.pulseMeasured, he, hr])
    · exact .fallUnrecognized now _ busy he h1 h2 hg (hw r hr) (by simpa using hc)
    · exact .fallAcquiring now _ bit busy he h1 h2 hg (hw r hr) (by simpa using hc) (by simpa using hs)
    · exact .fallOverrun now _ bit busy he h1 h2 hg (hw r hr) (by simpa using hc) (by simpa using hs) (by simpa using hi)
    · rcases State.store_cases bit _ hlt with ⟨_, h2'⟩ | ⟨_, _, h2'⟩ | ⟨b, h58, _, _, h2'⟩ | ⟨b, h58, _, _, h2'⟩ <;>
        rw [h2']
      · exact .fallStore now _ bit busy he h1 h2 hg (hw r hr) (by simpa using hc) (by simpa using hs) (by simpa using hlt)
      · exact .fallStore now _ bit busy he h1 h2 hg (hw r hr) (by simpa using hc) (by simpa using hs) (by simpa using hlt)
      · exact .fallAssemble now _ bit b busy he h1 h2 hg (hw r hr) (by simpa using hc) (by simpa using hs)
          (by simpa using h58)
      · exact .fallParityFailure now _ bit b busy he h1 h2 hg (hw r hr) (by simpa using hc) (by simpa using hs)
          (by simpa using h58)
  · exact .take rfl he (State.gapMeasured_of_no_edge he) (State.pulseMeasured_of_no_edge he)
  · exact .reset rfl he (State.gapMeasured_of_no_edge he) (State.pulseMeasured_of_no_edge he)
  · exact .mailbox level pending busy he h1 h2 (State.gapMeasured_of_no_edge he) (State.pulseMeasured_of_no_edge he)
  · exact .nothingPending he h1 h2 (State.gapMeasured_of_no_edge he) (State.pulseMeasured_of_no_edge he)
  · exact .nothingToEnd he h1 h2 (State.gapMeasured_of_no_edge he) (State.pulseMeasured_of_no_edge he)
  · exact .frameAssembled b rfl hb hp he (by simp) (by simp) (State.gapMeasured_of_no_edge he)
      (State.pulseMeasured_of_no_edge he)
  · exact .frameNotInvoked b rfl he (by simp) (by simp) (State.gapMeasured_of_no_edge he)
      (State.pulseMeasured_of_no_edge he)

end Sys2Proof.Machine
end

