-- ==== Sys2Proof/Laws/PerInstr.lean ====
section
/-! SUPPORT. Facts of every operation as syntax, one lemma per constructor. -/

namespace Sys2Proof.Laws

/-- The table word that stands for an operation is as wide as one of the four whole-byte widths of the table and sets
no bit above its format's width (30_encoding.md R90). -/
def FitsFormat.Statement (i : Instr) : Prop :=
  match (encode i).toTable with
  | (nbits, w) => (nbits = 8 ∧ w < 2 ^ 1) ∨ (nbits = 32 ∧ w < 2 ^ 32) ∨ (nbits = 40 ∧ w < 2 ^ 33) ∨
      (nbits = 64 ∧ w < 2 ^ 59)

theorem FitsFormat.edgeRise (t : U32) : FitsFormat.Statement (.edgeRise t) :=
  .inr (.inr (.inl ⟨rfl, (packEdge true t).isLt⟩))

theorem FitsFormat.edgeFall (t : U32) : FitsFormat.Statement (.edgeFall t) :=
  .inr (.inr (.inl ⟨rfl, (packEdge false t).isLt⟩))

theorem FitsFormat.take : FitsFormat.Statement .take := .inl ⟨rfl, (1#1).isLt⟩

theorem FitsFormat.reset : FitsFormat.Statement .reset := .inl ⟨rfl, (1#1).isLt⟩

theorem FitsFormat.capture (level : Bool) : FitsFormat.Statement (.capture level) :=
  .inl ⟨rfl, (BitVec.ofBool level).isLt⟩

theorem FitsFormat.pollBegin (now : U32) : FitsFormat.Statement (.pollBegin now) := .inr (.inl ⟨rfl, now.isLt⟩)

theorem FitsFormat.pollEnd : FitsFormat.Statement .pollEnd := .inl ⟨rfl, (1#1).isLt⟩

theorem FitsFormat.telegram (b : Frame) : FitsFormat.Statement (.telegram b) := .inr (.inr (.inr ⟨rfl, b.isLt⟩))

end Sys2Proof.Laws
end

