-- ==== Sys2Proof/Laws/Words.lean ====
section
/-! SUPPORT. The small facts about words: the one-bit lines, the fields of an `EV33` word, the window test. -/

namespace Sys2Proof

theorem bit1_cases (w : BitVec 1) : w = 0#1 ∨ w = 1#1 := by
  have := w.isLt
  rcases Nat.lt_or_ge w.toNat 1 with h | h
  · exact .inl (BitVec.eq_of_toNat_eq (by simp; omega))
  · exact .inr (BitVec.eq_of_toNat_eq (by simp; omega))

theorem packEdge_level (level : Bool) (t : U32) : (packEdge level t).getLsbD 32 = level := by
  simp only [packEdge, BitVec.getLsbD_append]; simp

theorem packEdge_timestamp (level : Bool) (t : U32) : (packEdge level t).extractLsb' 0 32 = t := by
  apply BitVec.eq_of_getLsbD_eq
  intro i hi
  simp only [packEdge, BitVec.getLsbD_append, BitVec.getLsbD_extractLsb', hi, Nat.zero_add, if_true, decide_true,
    Bool.true_and]

/-- An `EV33` word is its level and its timestamp. -/
theorem packEdge_fields (w : BitVec 33) : packEdge (w.getLsbD 32) (w.extractLsb' 0 32) = w := by
  apply BitVec.eq_of_getLsbD_eq
  intro i hi
  simp only [packEdge, BitVec.getLsbD_append, BitVec.getLsbD_extractLsb']
  split
  · rename_i h; simp; omega
  · obtain rfl : i = 32 := by omega
    simp

/-- A word that fits its width passes the padding check. -/
theorem exactly_toNat {width : Nat} (nbits : Nat) (v : BitVec width) (mk : BitVec width → PortWord) :
    exactly width nbits v.toNat mk = .ok (mk v) := by
  simp [exactly, v.isLt]

theorem Machine.inWin_iff (v : U32) (lo hi j : Nat) :
    Machine.inWin v lo hi j = true ↔ (lo : Int) - j ≤ v.toNat ∧ (v.toNat : Int) ≤ hi + j := by
  simp [Machine.inWin]

end Sys2Proof
end

