-- ==== Sys2Proof/Machine/Render.lean ====
section
/-! DEFINITION. The host-side reference text of a Telegram (44_bcd_assembler.md R196, R197). It is outside the
hardware's scope (00_scope.md R5) and no meaning calls it; it is kept to compare results with the spec's examples. -/

namespace Sys2Proof.Machine

/-- `Wd(n)` (R197). Only `Sa` is the source's; the other six are PRESUMED, general knowledge the spec marks as such
(K5; log entry 22). -/
def weekdayName (n : Nat) : Option String :=
  match n with
  | 1 => some "Mo"
  | 2 => some "Di"
  | 3 => some "Mi"
  | 4 => some "Do"
  | 5 => some "Fr"
  | 6 => some "Sa"
  | 7 => some "So"
  | _ => none

/-- `D2(n)`: two decimal digits; defined for 0..99 only (R196). -/
def twoDigits (n : Nat) : Option String :=
  if n < 10 then some ("0" ++ toString n) else if n < 100 then some (toString n) else none

/-- `TZ(f)` (R196). -/
def zoneName : DstFlag → String
  | .daylight => "MESZ"
  | .standard => "MEZ"
  | .unknown  => "---"

/-- `RenderCore(tg)` (R196). -/
def renderCore (t : Telegram) : Option String := do
  let wd ← weekdayName t.weekday.toNat
  let yy ← twoDigits t.year.toNat
  let mm ← twoDigits t.month.toNat
  let dd ← twoDigits t.dayOfMonth.toNat
  let hh ← twoDigits t.hour.toNat
  let mi ← twoDigits t.minute.toNat
  return wd ++ " 20" ++ yy ++ "-" ++ mm ++ "-" ++ dd ++ " " ++ hh ++ ":" ++ mi ++ ":00 " ++ zoneName t.dstFlag

/-- `Render(tg)` (R196; 90_conflicts.md C5). -/
def render (t : Telegram) : Option String := (renderCore t).map fun core => core ++ " DCF77"

end Sys2Proof.Machine
end

