-- ==== Sys2Proof/Machine/Stimulus.lean ====
section
/-! DEFINITION. The stimulus notation of 30_encoding.md R103 and the pseudo-operations of R104. They write sequences of
operations; no meaning calls them. -/

namespace Sys2Proof.Machine

/-- The line that writes an operation (R103). `TELEGRAM` has no line there: it is presented at no port of the spec. -/
def stimulusLine : Instr → Option String
  | .edgeRise t    => some ("R " ++ toString t.toNat)
  | .edgeFall t    => some ("F " ++ toString t.toNat)
  | .take          => some "TAKE"
  | .reset         => some "RESET"
  | .capture level => some ("CAP " ++ (if level then "1" else "0"))
  | .pollBegin now => some ("PB " ++ toString now.toNat)
  | .pollEnd       => some "PE"
  | .telegram _    => none

/-- `PULSE t w`: `R t ; F (t + w)`, modulo `2^32` (R104). -/
def pulseOps (t : U32) (w : Nat) : List Instr := [.edgeRise t, .edgeFall (t + BitVec.ofNat 32 w)]

/-- `BIT0 t` or `BIT1 t` (R104). -/
def bitOps (c : Config) (t : U32) (bit : Bool) : List Instr := pulseOps t (if bit then c.p1 else c.p0)

/-- `MINUTE t s`: the pulses of the bits in order, 1000 ms apart (R104). -/
def minuteOps (c : Config) : U32 → List Bool → List Instr
  | _, []        => []
  | t, bit :: bs => bitOps c t bit ++ minuteOps c (t + 1000#32) bs

/-- `POLL now`: `PB now ; PE` (R104). -/
def pollOps (now : U32) : List Instr := [.pollBegin now, .pollEnd]

end Sys2Proof.Machine
end

