-- ==== Sys2Proof/Tests/Slice0.lean ====
section
/-! SUPPORT. The model's own tests. Expected results come from the rules' worked examples and from
spec/95_test_vectors.md (V-…, P…), named at each test; the witnesses show states and operands that meet the hypotheses
of the statements in Certificates/Slice0/Obligations.lean. -/

namespace Sys2Proof.Tests

open Sys2Proof.Machine

/-! ### Helpers -/

/-- The state after an operation. -/
def after (i : Instr) (s : State) : State :=
  match exec i s with
  | .next t => t
  | _       => s

/-- A frame from its digits, index 0 first (R62). -/
def frameOfDigits (ds : List Nat) : Frame := frameOfBits (ds.map fun d => decide (d = 1))

/-- The string of V-S6 as a number, bit `i` being character `i`; `test_frames_are_the_spec_strings` compares them. -/
def frameS6 : Frame := 0x4587851273424b2#59

/-- The string of V-S7 (2099-12-31) as a number. -/
def frameS7 : Frame := 0x266531c6b340000#59

/-- A buffer whose first `n` slots hold the first bits of a frame. -/
def filled (n : Nat) (b : Frame) : Memory := (List.range n).map fun i => (i, Symbol.ofBit (b.getLsbD i))

/-- A synchronized state with `n` bits of a frame stored and a pulse begun at 118000. -/
def receiving (n : Nat) (b : Frame) : State :=
  { State.reset with
    tRise        := some 118000#32
    tFall        := some 117100#32
    synchronized := true
    secondIndex  := BitVec.ofNat 8 n
    buf          := filled n b }

/-- One falling edge at 58100 seen; the next rising edge measures a gap. -/
def paused : State := { State.reset with tFall := some 58100#32 }

/-! ### What the checks refuse -/

/-- `Instr.wellFormed` has no ill-formed term to refuse: every operand has exactly its format's width and the spec
reserves no value (R91, R101). One operation per format, at a boundary operand, is accepted. -/
theorem test_every_operand_is_well_formed :
    ([.edgeRise 0xFFFFFFFF#32, .edgeFall 0#32, .take, .reset, .capture true, .pollBegin 0xFFFFFFFF#32, .pollEnd,
      .telegram (BitVec.allOnes 59)] : List Instr).all Instr.wellFormed = true := by decide

/-- R10: an inverted sync window is refused. -/
theorem test_inverted_sync_window_is_refused :
    Config.wf { Config.default with minSyncGap := 1901 } = false := by decide

/-- R10: pulse windows that touch (`P0 + JITTER = P1 - JITTER`) are refused. -/
theorem test_touching_pulse_windows_are_refused : Config.wf { Config.default with jitter := 50 } = false := by decide

/-- R8: the defaults meet the constraints. -/
theorem test_default_configuration_is_well_formed : Config.default.wf = true := by decide

theorem test_unsorted_buffer_is_refused : Memory.wf [(3, .one), (2, .zero)] = false := by decide

theorem test_repeated_address_is_refused : Memory.wf [(3, .one), (3, .zero)] = false := by decide

theorem test_address_59_is_refused : Memory.wf [(59, .one)] = false := by decide

theorem test_listed_unset_slot_is_refused : Memory.wf [(3, .unset)] = false := by decide

theorem test_unknown_width_is_rejected_by_name : tableWord 16 1 = .error (.noFormat 16) := by decide

theorem test_padding_bit_is_rejected_by_name :
    tableWord 40 0x200000000 = .error (.paddingSet 40 0x200000000) := by decide

theorem test_idle_strobe_is_rejected_by_name : decode (.take 0#1) = .error (.idleLine .take) := by decide

/-! ### Decoding, from words written out by the spec's encodings -/

/-- R103: `R 1000` is `0x1000003E8`. -/
theorem test_decode_edge_rise : decodeTableWord 40 0x1000003E8 = some (.edgeRise 1000#32) := by decide

/-- R103: `F 1100` is `0x00000044C`. -/
theorem test_decode_edge_fall : decodeTableWord 40 0x00000044C = some (.edgeFall 1100#32) := by decide

/-- P4: `R 4294963796` is `0x1FFFFF254`. -/
theorem test_decode_edge_rise_high_timestamp :
    decodeTableWord 40 0x1FFFFF254 = some (.edgeRise 4294963796#32) := by decide

/-- R97: value 1 on the take line. -/
theorem test_decode_take : decode (.take 1#1) = .ok .take := by decide

/-- R97: value 1 on the reset line. -/
theorem test_decode_reset : decode (.reset 1#1) = .ok .reset := by decide

/-- R97: `CAP1`, 1 = high, and P8 `CAP 0`. -/
theorem test_decode_capture :
    decode (.capture 1#1) = .ok (.capture true) ∧ decodeTableWord 8 0 = some (.capture false) := by decide

/-- P8: `PB 5000` is `0x00001388`. -/
theorem test_decode_poll_begin : decodeTableWord 32 0x00001388 = some (.pollBegin 5000#32) := by decide

/-- R97: value 1 on the line that acknowledges a poll. -/
theorem test_decode_poll_end : decode (.pollEnd 1#1) = .ok .pollEnd := by decide

/-- R95 under log entry 10: bits 18, 20, 21 and 58 set, written as a number. -/
theorem test_decode_telegram :
    decodeTableWord 64 (2 ^ 18 + 2 ^ 20 + 2 ^ 21 + 2 ^ 58) =
      some (.telegram (1#59 <<< 18 ||| 1#59 <<< 20 ||| 1#59 <<< 21 ||| 1#59 <<< 58)) := by decide

/-- A placed word is what the next step performs: `R 1000` right after reset records its timestamp (R131). -/
theorem test_step_performs_the_placed_word :
    step (State.reset.withFetchWord 40 0x1000003E8) =
      .next { State.reset with tRise := some 1000#32, outcome := [.noMeasurement] } := rfl

/-! ### Meanings, from the rules' worked examples -/

/-- R128: `tFall = 58100`, `R 60000`: gap 1900, the Synchronizer fires. -/
theorem test_edge_rise_worked_example :
    (after (.edgeRise 60000#32) paused).outcome = [.syncDetected 1900#32] ∧
    (after (.edgeRise 60000#32) paused).tRise = some 60000#32 ∧
    (after (.edgeRise 60000#32) paused).synchronized = true := by decide

/-- P4: `R 500` after `F 4294966896` measures 900 across the wrap. -/
theorem test_edge_rise_across_the_wrap :
    (after (.edgeRise 500#32) { State.reset with tFall := some 4294966896#32 }).outcome = [.noSync 900#32] := by decide

/-- R129: `tRise = 60000`, `F 60100`: width 100, `buf[0]` is Zero, the index advances, the indicator toggles. -/
theorem test_edge_fall_worked_example :
    let t := after (.edgeFall 60100#32) { State.reset with tRise := some 60000#32, synchronized := true }
    Memory.read t.buf 0 = .zero ∧ t.secondIndex = 1 ∧ t.indicator = true ∧ t.tFall = some 60100#32 ∧
      t.out.tap = .char0 := by decide

/-- P3: the last pulse of the V-S6 string, `F 118200`, assembles the Telegram in the same step. -/
theorem test_edge_fall_assembles_the_telegram :
    let t := after (.edgeFall 118200#32) (receiving 58 frameS6)
    t.tg = some { dstFlag := .standard, minute := 39, hour := 9, dayOfMonth := 5, weekday := 6, month := 3,
                  year := 16 } ∧
      t.cal.second = 0 ∧ t.cal.minute = 39 ∧ t.telegramFresh = true ∧ t.secondIndex = 59 ∧
      t.outcome = [.bitStored 58 true, .telegramAssembled] := by decide +kernel

/-- R188: the worked example's frame, over the buffer that holds it. -/
theorem test_telegram_worked_example :
    (after (.telegram frameS6) (receiving 59 frameS6)).tg =
      some { dstFlag := .standard, minute := 39, hour := 9, dayOfMonth := 5, weekday := 6, month := 3,
             year := 16 } := by decide +kernel

/-- R180: without a full buffer the assembler is not invoked. -/
theorem test_telegram_without_a_full_buffer : after (.telegram 0#59) State.reset = State.reset := by decide

/-- R203: `telegramFresh = 1`, `TAKE`, then 0; `out` and every other field as R45 and R203 say. -/
theorem test_take_worked_example :
    (after .take { State.reset with telegramFresh := true, indicator := true }) =
      { State.reset with indicator := true, outcome := [.taken] } := by decide

/-- R201: from `synchronized = 1`, `secondIndex = 30`, `telegramFresh = 1`. -/
theorem test_reset_worked_example :
    let t := after .reset { receiving 30 frameS6 with telegramFresh := true }
    t.synchronized = false ∧ t.secondIndex = 0 ∧ t.buf = [] ∧ t.telegramFresh = false ∧ t.tg = none ∧
      t.phase = .acquiring := by decide

/-- R205: `CAP 1` on an empty mailbox. -/
theorem test_capture_worked_example :
    after (.capture true) State.reset = { State.reset with edgeLevel := true, edgePending := true } := by decide

/-- R207: `edgePending = 1`, `edgeLevel = 0`, `PB 60100` performs `F 60100`. -/
theorem test_poll_begin_worked_example :
    after (.pollBegin 60100#32) { State.reset with edgePending := true } =
      { State.reset with tFall := some 60100#32, edgePending := true, pollBusy := true, outcome := [.noMeasurement] } := by
  decide

/-- P8: `PB 5300` with nothing pending. -/
theorem test_poll_begin_nothing_pending :
    (after (.pollBegin 5300#32) State.reset).outcome = [.nothingPending] := by decide

/-- R208: after a `POLL.BEGIN`, `PE` clears both bits. -/
theorem test_poll_end_worked_example :
    after .pollEnd { State.reset with edgePending := true, pollBusy := true } = State.reset := by decide

/-- P8: a second `PE` has nothing to end. -/
theorem test_poll_end_nothing_to_end : (after .pollEnd State.reset).outcome = [.nothingToEnd] := by decide

/-! ### Internal functions, from the vectors -/

/-- R62: the strings of V-S6 and V-S7, index 0 first, cut by the field map as 95_test_vectors.md prints them. -/
theorem test_frames_are_the_spec_strings :
    frameOfDigits
      ([0,1,0,0,1,1,0,1,0,0,1,0,0,1,0,0,0] ++ [0,1] ++ [0,1] ++ [1,0,0,1,1,1,0] ++ [0] ++ [1,0,0,1,0,0] ++ [0] ++
        [1,0,1,0,0,0] ++ [0,1,1] ++ [1,1,0,0,0] ++ [0,1,1,0,1,0,0,0] ++ [1]) = frameS6 ∧
    frameOfDigits
      ([0,0,0,0,0,0,0,0,0,0,0,0,0,0,0,0,0] ++ [0,1] ++ [0,1] ++ [1,0,0,1,1,0,1] ++ [0] ++ [1,1,0,0,0,1] ++ [1] ++
        [1,0,0,0,1,1] ++ [0,0,1] ++ [0,1,0,0,1] ++ [1,0,0,1,1,0,0,1] ++ [0]) = frameS7 := by decide +kernel

/-- V-S1. -/
theorem test_classification_bounds :
    [64, 65, 100, 135, 136, 164, 165, 200, 235, 236].map (fun w => classify Config.default (BitVec.ofNat 32 w)) =
      [.unrecognized, .zero, .zero, .zero, .unrecognized, .unrecognized, .one, .one, .one, .unrecognized] := by decide

/-- V-S2. -/
theorem test_sync_window_bounds :
    [1764, 1765, 1800, 1900, 1935, 1936].map (fun g => isSyncGap Config.default (BitVec.ofNat 32 g)) =
      [false, true, true, true, true, false] := by decide

/-- R127: overlapping windows, a width in both is a zero. -/
theorem test_overlapping_windows_zero_first :
    classify { Config.default with jitter := 60 } 150#32 = .zero := by decide

/-- V-D1. -/
theorem test_sub32 :
    sub32 1100#32 1000#32 = 100#32 ∧ sub32 0x24#32 0xFFFFFFC0#32 = 100#32 ∧ sub32 0#32 0xFFFFFFFF#32 = 1#32 ∧
    sub32 1000#32 1100#32 = 0xFFFFFF9C#32 ∧ sub32 700#32 4294966896#32 = 1100#32 := by decide

/-- V-S7: 2099-12-31 decodes without overflow. -/
theorem test_telegram_of_the_boundary_date :
    telegramOf frameS7 =
      { dstFlag := .standard, minute := 59, hour := 23, dayOfMonth := 31, weekday := 4, month := 12,
        year := 99 } := by decide

/-- V-S5: flips of bits 21, 35 and 58 of the V-S6 string, and both 21 and 29 (R175 item 1). -/
theorem test_parity_sensitivity :
    let groups := fun b : Frame => (okMinutes b, okHours b, okDate b)
    groups frameS6 = (true, true, true) ∧ groups (frameS6 ^^^ (1#59 <<< 21)) = (false, true, true) ∧
    groups (frameS6 ^^^ (1#59 <<< 35)) = (true, false, true) ∧
    groups (frameS6 ^^^ (1#59 <<< 58)) = (true, true, false) ∧
    parityOK .combinedLegacy (frameS6 ^^^ (1#59 <<< 21) ^^^ (1#59 <<< 29)) = true := by decide

/-- V-S4: the encoder gives the V-S6 string from its values and its first 21 bits, and the V-S7 string likewise. -/
theorem test_encoder_gives_the_spec_strings :
    encodeTelegram (frameS6 &&& 0x1FFFFF#59)
      { minute := 39, hour := 9, dayOfMonth := 5, weekday := 6, month := 3, year := 16 } = frameS6 ∧
    encodeTelegram (frameS7 &&& 0x1FFFFF#59)
      { minute := 59, hour := 23, dayOfMonth := 31, weekday := 4, month := 12, year := 99 } = frameS7 := by
  decide +kernel

/-- R104: `PULSE` and `POLL` expand as the table says. -/
theorem test_pseudo_operations :
    pulseOps 4294967290#32 100 = [.edgeRise 4294967290#32, .edgeFall 94#32] ∧
    pollOps 5000#32 = [.pollBegin 5000#32, .pollEnd] := by decide

/-! ### Witnesses of the statements' hypotheses -/

theorem witness_StepPerformsTheDecodedOperation :
    (State.reset.present [.edge 0x1000003E8#33]).input = .edge 0x1000003E8#33 :: [] ∧
    decode (.edge 0x1000003E8#33) = .ok (.edgeRise 1000#32) := by decide

theorem witness_StepWithoutAnOperationChangesNoRegister :
    State.reset.input = [] ∧ (State.reset.present [.pollEnd 0#1]).input = .pollEnd 0#1 :: [] ∧
    decode (.pollEnd 0#1) = .error (.idleLine .pollEnd) := by decide

/-- One clause each: equal, later, earlier (wrapped), at the ends of the range. -/
theorem witness_WidthIsTheModularDifference :
    5#32 = 5#32 ∧ (0#32).toNat < (0xFFFFFFFF#32).toNat ∧ sub32 0xFFFFFFFF#32 0#32 = 0xFFFFFFFF#32 ∧
    sub32 0#32 0xFFFFFFFF#32 = 1#32 := by decide

/-- The ends of both windows, so every clause is met and the four outcomes differ. -/
theorem witness_ClassifyFollowsTheWindows :
    classify Config.default 65#32 = .zero ∧ classify Config.default 135#32 = .zero ∧
    classify Config.default 165#32 = .one ∧ classify Config.default 235#32 = .one := by decide

/-- Latencies at the limit, in both directions, with the clock wrapping between the edges. -/
theorem witness_JitterAbsorbsThePollLatency :
    let c := Config.default
    (c.wf = true ∧ c.jitter ≤ c.p0 ∧ c.p1 + c.jitter < 2 ^ 32) ∧
    ((0#32).toNat ≤ (35#32).toNat + c.jitter ∧ (35#32).toNat ≤ (0#32).toNat + c.jitter) ∧
    sub32 (0xFFFFFFE0#32 + BitVec.ofNat 32 c.p0 + 35#32) (0xFFFFFFE0#32 + 0#32) = 135#32 ∧
    sub32 (0xFFFFFFE0#32 + BitVec.ofNat 32 c.p1 + 0#32) (0xFFFFFFE0#32 + 35#32) = 165#32 := by decide

/-- Gaps 1765 and 1935, the ends of the window (R146). -/
theorem witness_RisingEdgeOnSyncGapStartsTheMinute :
    [59865#32, 60035#32].all (fun now =>
      decide (paused.tFall = some 58100#32 ∧
        (paused.cfg.minSyncGap : Int) - paused.cfg.jitter ≤ (sub32 now 58100#32).toNat ∧
        ((sub32 now 58100#32).toNat : Int) ≤ paused.cfg.maxSyncGap + paused.cfg.jitter)) = true := by decide

/-- Gaps 1764 and 1936, just outside (R146). -/
theorem witness_RisingEdgeOnOrdinaryGapChangesOnlyItsTimestamp :
    paused.tFall = some 58100#32 ∧
    (sub32 59864#32 58100#32).toNat < (paused.cfg.minSyncGap : Int) - paused.cfg.jitter ∧
    (paused.cfg.maxSyncGap : Int) + paused.cfg.jitter < (sub32 60036#32 58100#32).toNat := by decide

theorem witness_FirstEdgesOnlyRecordTheirTimestamp :
    State.reset.tFallValid = false ∧ State.reset.tRiseValid = false ∧
    exec (.edgeRise 1#32) State.reset = .next (after (.edgeRise 1#32) State.reset) ∧
    exec (.edgeFall 1#32) State.reset = .next (after (.edgeFall 1#32) State.reset) ∧
    Instr.take ≠ .reset ∧ exec .take paused = .next (after .take paused) ∧ paused.tFallValid = true :=
  ⟨by decide, by decide, rfl, rfl, by decide, rfl, by decide⟩

/-- Both disjuncts of the frame: a sync gap and an ordinary one. -/
theorem witness_RisingEdgeFrame :
    exec (.edgeRise 60000#32) paused = .next (after (.edgeRise 60000#32) paused) ∧
    (after (.edgeRise 60000#32) paused).out.minuteBoundary = true ∧
    (after (.edgeRise 59000#32) paused).out.minuteBoundary = false := ⟨rfl, by decide, by decide⟩

/-- Widths 64, 136, 164 and 236, next to the four window ends, in a receiving and in an acquiring state. -/
theorem witness_UnrecognizedPulseIsDropped :
    [receiving 3 frameS6, { State.reset with tRise := some 118000#32 }].all (fun s =>
      decide (s.tRise = some 118000#32) &&
        [118064#32, 118136#32, 118164#32, 118236#32].all fun now =>
          decide (classify s.cfg (sub32 now 118000#32) = .unrecognized)) = true := by decide

/-- Widths 65 and 235 while acquiring. -/
theorem witness_RecognizedPulseWhileAcquiringIsOnlyEchoed :
    let s := { State.reset with tRise := some 118000#32 }
    s.tRise = some 118000#32 ∧ s.synchronized = false ∧
    classify s.cfg (sub32 118065#32 118000#32) = PulseClass.ofBit false ∧
    classify s.cfg (sub32 118235#32 118000#32) = PulseClass.ofBit true := by decide

/-- The full buffer, index 59, and (unreachable) index 255. -/
theorem witness_OverrunDiscardsTheBit :
    [59, 255].all (fun n =>
      decide ((receiving n frameS6).tRise = some 118000#32 ∧ (receiving n frameS6).synchronized = true ∧
        59 ≤ (receiving n frameS6).secondIndex.toNat ∧
        classify (receiving n frameS6).cfg (sub32 118100#32 118000#32) = PulseClass.ofBit false)) = true := by decide

/-- The first slot and the last but one. -/
theorem witness_RecognizedPulseStoresOneBit :
    [0, 57].all (fun n =>
      decide ((receiving n frameS6).tRise = some 118000#32 ∧ (receiving n frameS6).synchronized = true ∧
        (receiving n frameS6).secondIndex.toNat ≤ 57 ∧
        classify (receiving n frameS6).cfg (sub32 118135#32 118000#32) = PulseClass.ofBit false)) = true := by decide

/-- The V-S6 string with its last bit, a one, still to come. -/
theorem witness_LastBitAssemblesTheTelegram :
    let s := receiving 58 frameS6
    s.tRise = some 118000#32 ∧ s.synchronized = true ∧ s.secondIndex.toNat = 58 ∧
    classify s.cfg (sub32 118200#32 118000#32) = PulseClass.ofBit (frameS6.getLsbD 58) ∧
    (∀ i, i < 58 → Memory.read s.buf i = if frameS6.getLsbD i then .one else .zero) ∧
    parityOK s.cfg.parityMode frameS6 = true := by decide

/-- P6: bit 21 flipped. -/
theorem witness_ParityFailureKeepsTheOldTelegram :
    let b := frameS6 ^^^ (1#59 <<< 21)
    let s := receiving 58 b
    s.tRise = some 118000#32 ∧ s.synchronized = true ∧ s.secondIndex.toNat = 58 ∧
    classify s.cfg (sub32 118200#32 118000#32) = PulseClass.ofBit (b.getLsbD 58) ∧
    (∀ i, i < 58 → Memory.read s.buf i = if b.getLsbD i then .one else .zero) ∧
    parityOK s.cfg.parityMode b = false := by decide

theorem witness_FallingEdgeFrame :
    exec (.edgeFall 118200#32) (receiving 3 frameS6) = .next (after (.edgeFall 118200#32) (receiving 3 frameS6)) ∧
    (after (.edgeFall 118200#32) (receiving 3 frameS6)).out.telegramStrobe = false := ⟨rfl, by decide⟩

/-- A state that meets the invariant: synchronized, three bits stored, a poll under way. -/
theorem witness_invariant : State.Inv { receiving 3 frameS6 with edgePending := true, pollBusy := true } where
  canonical       := by decide
  indexBound      := by decide
  filledPrefix    := by decide
  acquiringEmpty  := fun h => absurd h (by decide)
  freshHasValue   := fun h => absurd h (by decide)
  telegramInRange := fun _ h => absurd h (by simp [receiving, State.reset, State.resetWith])
  busyHasEdge     := fun _ => rfl

/-- A state that meets the invariant with its buffer full. -/
theorem witness_ToBitsAnswersAtIndex59 : State.Inv (receiving 59 frameS6) ∧ (receiving 59 frameS6).secondIndex = 59 :=
  ⟨{ canonical       := by decide
     indexBound      := by decide
     filledPrefix    := by decide
     acquiringEmpty  := fun h => absurd h (by decide)
     freshHasValue   := fun h => absurd h (by decide)
     telegramInRange := fun _ h => absurd h (by simp [receiving, State.reset, State.resetWith])
     busyHasEdge     := fun h => absurd h (by decide) }, by decide⟩

theorem witness_NoFilledSlotIsOverwritten :
    let s := { receiving 3 frameS6 with edgePending := true, pollBusy := true }
    State.Inv s ∧ exec (.edgeFall 118200#32) s = .next (after (.edgeFall 118200#32) s) ∧
    Memory.read s.buf 2 ≠ .unset := ⟨witness_invariant, rfl, by decide⟩

/-- Each clause: the buffer holds a frame that passes; it misses the last bit; it holds a frame that fails. -/
theorem witness_TelegramOperationAssemblesOrRejects :
    (∀ i, i < 59 → Memory.read (receiving 59 frameS6).buf i = if frameS6.getLsbD i then .one else .zero) ∧
    parityOK State.reset.cfg.parityMode frameS6 = true ∧
    Memory.read (receiving 58 frameS6).buf 58 ≠ (if frameS6.getLsbD 58 then .one else .zero) ∧
    parityOK State.reset.cfg.parityMode (frameS6 ^^^ (1#59 <<< 58)) = false := by decide

theorem witness_PerFieldIsStricterThanCombined : parityOK .perField frameS6 = true := by decide

/-- The ends of the three groups, in both modes. -/
theorem witness_SingleFlipIsRejected :
    [21, 28, 29, 35, 36, 58].all (fun k => decide (21 ≤ k ∧ k < 59)) = true ∧
    parityOK .perField frameS6 = true ∧ parityOK .combinedLegacy frameS6 = true := by decide

/-- The last unprotected index, and a mask of four flips from one end of the date group to the other. -/
theorem witness_UndetectedFlips :
    let m : Frame := 1#59 <<< 36 ||| 1#59 <<< 40 ||| 1#59 <<< 50 ||| 1#59 <<< 58
    20 < 21 ∧ (36, 59) ∈ [(21, 29), (29, 36), (36, 59)] ∧
    (∀ i, m.getLsbD i = true → 36 ≤ i ∧ i < 59) ∧ Even ((Finset.Ico 36 59).filter fun i => m.getLsbD i = true).card := by
  have inside : ∀ i, i < 59 → (1#59 <<< 36 ||| 1#59 <<< 40 ||| 1#59 <<< 50 ||| 1#59 <<< 58).getLsbD i = true →
      36 ≤ i ∧ i < 59 := by decide
  exact ⟨by decide, by decide, fun i hi => inside i (BitVec.lt_of_getLsbD hi) hi, by decide⟩

/-- Two different frames that agree on every bit that is read: bits 0, 16, 19 and 20 flipped. -/
theorem witness_UnassignedBitsAreIgnored :
    let b' := frameS6 ^^^ (1#59 <<< 0) ^^^ (1#59 <<< 16) ^^^ (1#59 <<< 19) ^^^ (1#59 <<< 20)
    frameS6 ≠ b' ∧
    ∀ i, i < 59 → (17 ≤ i ∧ i < 19 ∨ 21 ≤ i ∧ i < 59) → frameS6.getLsbD i = b'.getLsbD i := by decide

/-- The values of V-S7 over a zero head, one bit still to come; and the largest digits of every field. -/
theorem witness_EncodedTelegramIsRecovered :
    let v : TelegramValues := { minute := 59, hour := 23, dayOfMonth := 31, weekday := 4, month := 12, year := 99 }
    let b := encodeTelegram (frameS7 &&& 0x1FFFFF#59) v
    let s := receiving 58 frameS7
    v.fits = true ∧ s.tRise = some 118000#32 ∧
    classify s.cfg (sub32 118100#32 118000#32) = PulseClass.ofBit (b.getLsbD 58) ∧ s.synchronized = true ∧
    s.secondIndex.toNat = 58 ∧
    (∀ i, i < 58 → Memory.read s.buf i = if b.getLsbD i then .one else .zero) ∧
    TelegramValues.fits { minute := 79, hour := 39, dayOfMonth := 39, weekday := 7, month := 19, year := 159 } = true := by
  decide +kernel

/-- Two falling edges that assemble the same buffer at different times, from states that differ elsewhere. -/
theorem witness_DecodingDependsOnTheBufferAlone :
    let s := receiving 58 frameS6
    let s' := { s with tRise := some 5#32, indicator := true, telegramFresh := true, edgePending := true }
    exec (.edgeFall 118200#32) s = .next (after (.edgeFall 118200#32) s) ∧
    exec (.edgeFall 205#32) s' = .next (after (.edgeFall 205#32) s') ∧
    (after (.edgeFall 118200#32) s).out.telegramStrobe = true ∧ (after (.edgeFall 205#32) s').out.telegramStrobe = true ∧
    (after (.edgeFall 118200#32) s).buf = (after (.edgeFall 205#32) s').buf :=
  ⟨rfl, rfl, by decide +kernel⟩

/-- The mailbox cases of `POLL.BEGIN` and `POLL.END`. -/
theorem witness_PollOperations :
    let pending := { State.reset with edgePending := true }
    let busy := { pending with pollBusy := true }
    (pending.pollBusy = false ∧ pending.edgePending = true) ∧ busy.pollBusy = true ∧
    State.reset.edgePending = false ∧ State.reset.pollBusy = false := by decide

theorem witness_MailboxLosesEdges :
    let busy := { State.reset with edgePending := true, pollBusy := true }
    exec (.capture true) State.reset = .next (after (.capture true) State.reset) ∧ busy.pollBusy = true ∧
    exec (.capture true) busy = .next (after (.capture true) busy) := ⟨rfl, rfl, rfl⟩

/-- Each clause: the flag set, the flag cleared, the level written, a poll begun, a poll ended. -/
theorem witness_MailboxWriters :
    let pending := { State.reset with edgePending := true }
    let busy := { pending with pollBusy := true }
    (State.reset.edgePending = false ∧ (after (.capture true) State.reset).edgePending = true) ∧
    (busy.edgePending = true ∧ (after .pollEnd busy).edgePending = false) ∧
    (after (.capture true) State.reset).edgeLevel ≠ State.reset.edgeLevel ∧
    (pending.pollBusy = false ∧ (after (.pollBegin 9#32) pending).pollBusy = true) ∧
    (busy.pollBusy = true ∧ (after .pollEnd busy).pollBusy = false) := by decide

theorem witness_SimultaneousWordsAreSerialised :
    PortWord.reset 1#1 ∈ [PortWord.edge 0#33, .reset 1#1, .capture 1#1] := by decide

theorem witness_EveryStepKeepsTheInvariant :
    State.Inv { receiving 3 frameS6 with edgePending := true, pollBusy := true } ∧
    step { receiving 3 frameS6 with edgePending := true, pollBusy := true } =
      .next { receiving 3 frameS6 with edgePending := true, pollBusy := true } := ⟨witness_invariant, rfl⟩

/-- A reachable state that is synchronized: `F 1000`, then `R 2900`. -/
theorem witness_InvariantsOfTheReachableStates :
    ∃ s t : State, Reachable s ∧ s.synchronized = true ∧ step s = .next t ∧ s.input.head? ≠ some (.reset 1#1) ∧
      t.synchronized = true := by
  let s₁ := after (.edgeFall 1000#32) State.reset
  let s₂ := after (.edgeRise 2900#32) s₁
  have h₁ : Reachable s₁ :=
    .step (State.reset.present [.edge 1000#33]) s₁ (.present _ _ (.reset Config.default)) rfl
  have h₂ : Reachable s₂ := .step (s₁.present [.edge 0x100000B54#33]) s₂ (.present _ _ h₁) rfl
  exact ⟨s₂, s₂.startOp, h₂, by decide, rfl, by decide, by decide⟩

/-- Each clause: set, a sync gap measured, cleared. -/
theorem witness_SynchronizedWriters :
    (paused.synchronized = false ∧ (after (.edgeRise 60000#32) paused).synchronized = true) ∧
    (paused.gapMeasured (.edgeRise 60000#32) = some 1900#32 ∧ isSyncGap paused.cfg 1900#32 = true) ∧
    ((receiving 3 frameS6).synchronized = true ∧ (after .reset (receiving 3 frameS6)).synchronized = false) := by decide

/-- The three cases of `secondIndex`: kept, advanced, reset. -/
theorem witness_SecondIndexWriters :
    exec (.edgeFall 118200#32) (receiving 3 frameS6) = .next (after (.edgeFall 118200#32) (receiving 3 frameS6)) ∧
    (after .take (receiving 3 frameS6)).secondIndex = 3 ∧
    (after (.edgeFall 118200#32) (receiving 3 frameS6)).secondIndex = 4 ∧
    (after (.edgeRise 119000#32) (receiving 3 frameS6)).secondIndex = 0 := ⟨rfl, by decide, by decide, by decide⟩

/-- One operation that answers a next state, for the statements over every operation; both sides of their equivalences
occur. -/
theorem witness_EveryOperationStatements :
    exec (.edgeRise 60000#32) paused = .next (after (.edgeRise 60000#32) paused) ∧
    (after (.edgeRise 60000#32) paused).out.minuteBoundary = true ∧
    paused.gapMeasured (.edgeRise 60000#32) = some 1900#32 ∧
    (after (.edgeFall 118200#32) (receiving 3 frameS6)).indicator ≠ (receiving 3 frameS6).indicator ∧
    (after (.edgeFall 118236#32) (receiving 3 frameS6)).indicator = (receiving 3 frameS6).indicator ∧
    (after (.edgeFall 118236#32) (receiving 3 frameS6)).outcome = [.unrecognizedWidth 236#32] ∧
    (receiving 58 frameS6).phaseAfter (.edgeFall 118200#32) = .complete :=
  ⟨rfl, by decide, by decide, by decide, by decide, by decide, by decide⟩

/-- Both clauses of the statement on the writers of the Telegram. -/
theorem witness_TelegramWriters :
    (after (.edgeFall 118200#32) (receiving 58 frameS6)).out.telegramStrobe = true ∧
    (after (.edgeRise 60000#32) paused).out.telegramStrobe = false ∧ Instr.edgeRise 60000#32 ≠ .reset ∧
    Instr.edgeRise 60000#32 ≠ .take := by decide +kernel

end Sys2Proof.Tests
end

/-! Proofs about the registers (10_state.md): who writes each of them, the invariant of the reachable states, the state
after reset. The lemmas `exec_buffer_cases`, `exec_synchronized_iff`, `exec_telegram_cases` and `exec_mailbox_cases` say
once what an operation does to each group of registers; the statements follow from them. -/

namespace Sys2Proof.Machine

/-! ### The steps that perform no operation -/

theorem step_of_no_word {s : State} (hin : s.input = []) : step s = .next s.startOp := by
  simp [step, State.fetch, hin]

theorem step_of_rejected_word {s : State} {p : PortWord} {rest : List PortWord} {e : DecodeReject}
    (hin : s.input = p :: rest) (hd : decode p = .error e) :
    step s = .next (State.startOp { s with input := rest }) := by
  simp [step, State.fetch, hin, hd]

/-! ### What an operation does to the buffer and its index (10_state.md R30, R31, R33) -/

/-- The three things an operation can do to the sequencing registers: keep them, clear the buffer, or store one bit. -/
theorem exec_buffer_cases {i : Instr} {s t : State} (h : exec i s = .next t) :
    (t.buf = s.buf ∧ t.secondIndex = s.secondIndex ∧ t.synchronized = s.synchronized) ∨
    (t.buf = [] ∧ t.secondIndex = 0) ∨
    (∃ bit, s.secondIndex.toNat < 59 ∧ t.synchronized = true ∧ t.secondIndex = s.secondIndex + 1 ∧
      t.buf = Memory.bufWrite s.buf s.secondIndex.toNat (Symbol.ofBit bit)) := by
  cases exec_effect h with
  | riseSync | reset => exact .inr (.inl ⟨rfl, rfl⟩)
  | fallStore now w bit busy he hr ht hg hw hc hs hi => exact .inr (.inr ⟨bit, hi, hs, rfl, rfl⟩)
  | fallAssemble now w bit b busy he hr ht hg hw hc hs hi
  | fallParityFailure now w bit b busy he hr ht hg hw hc hs hi =>
    exact .inr (.inr ⟨bit, by omega, hs, rfl, rfl⟩)
  | _ => exact .inl ⟨rfl, rfl, rfl⟩

/-- `synchronized` after an operation: kept except by `RESET`, and set by every measured sync gap (R31). -/
theorem exec_synchronized_iff {i : Instr} {s t : State} (h : exec i s = .next t) :
    t.synchronized = true ↔
      (i ≠ .reset ∧ s.synchronized = true) ∨ ∃ g, s.gapMeasured i = some g ∧ isSyncGap s.cfg g = true := by
  cases exec_effect h with
  | riseSync now g busy he hr ht hg hw hs => simp [hg, hs]
  | reset hr he hg hw => subst hr; simp [hg]
  | _ => simp_all

/-- Below 59 the increment of the index does not wrap (R30). -/
theorem toNat_add_one_of_lt {n : U8} (h : n.toNat < 59) : (n + 1).toNat = n.toNat + 1 := by
  rw [BitVec.toNat_add]
  exact Nat.mod_eq_of_lt (by simp; omega)

/-! ### The Telegram -/

/-- No field exceeds the sum of its place values (44_bcd_assembler.md R182). -/
theorem bcd_le (b : Frame) (first count : Nat) :
    bcd b first count ≤ ((List.range count).map fun i => bcdWeights.getD i 0).sum :=
  List.sum_le_sum fun _ _ => mul_le_of_le_one_left (Nat.zero_le _) (Bool.toNat_le _)

theorem telegramOf_inRange (b : Frame) : (telegramOf b).InRange := by
  have field (first count : Nat) : (BitVec.ofNat 8 (bcd b first count)).toNat ≤
      ((List.range count).map fun i => bcdWeights.getD i 0).sum := by
    rw [BitVec.toNat_ofNat]
    exact (Nat.mod_le _ _).trans (bcd_le b first count)
  exact ⟨field 21 7, field 29 6, field 36 6, field 42 3, field 45 5, field 50 8⟩

/-- What an operation does to the Telegram, its fresh flag, the caller's record and the two strobes of a step: an
assembly writes all of them; `RESET` and `TAKE` clear; any other operation writes at most `cal.second`, and that at
a minute boundary. -/
theorem exec_telegram_cases {i : Instr} {s t : State} (h : exec i s = .next t) :
    (∃ b, t.out.telegramStrobe = true ∧ t.tg = some (telegramOf b) ∧ t.telegramFresh = true ∧
      t.cal = projectToCalendar (telegramOf b)) ∨
    (i = .reset ∧ t.out.telegramStrobe = false ∧ t.tg = none ∧ t.telegramFresh = false ∧ t.cal = s.cal) ∨
    (i = .take ∧ t.out.telegramStrobe = false ∧ t.tg = s.tg ∧ t.telegramFresh = false ∧ t.cal = s.cal) ∨
    (t.out.telegramStrobe = false ∧ t.tg = s.tg ∧ t.telegramFresh = s.telegramFresh ∧
      (t.cal = s.cal ∨ t.out.minuteBoundary = true ∧ t.cal = { s.cal with second := 0 })) := by
  cases exec_effect h with
  | fallAssemble now w bit b | frameAssembled b => exact .inl ⟨b, rfl, rfl, rfl, rfl⟩
  | reset hr => exact .inr (.inl ⟨hr, rfl, rfl, rfl, rfl⟩)
  | take ht => exact .inr (.inr (.inl ⟨ht, rfl, rfl, rfl, rfl⟩))
  | riseSync => exact .inr (.inr (.inr ⟨rfl, rfl, rfl, .inr ⟨rfl, rfl⟩⟩))
  | _ => exact .inr (.inr (.inr ⟨rfl, rfl, rfl, .inl rfl⟩))

/-! ### The mailbox -/

/-- What an operation does to the mailbox and `pollBusy` (R42, R43): each of the four operations that write them, and
all others, which keep them. -/
theorem exec_mailbox_cases {i : Instr} {s t : State} (h : exec i s = .next t) :
    (t.edgePending = s.edgePending ∧ t.edgeLevel = s.edgeLevel ∧ t.pollBusy = s.pollBusy) ∨
    (i = .capture t.edgeLevel ∧ t.edgePending = true ∧ t.pollBusy = s.pollBusy) ∨
    (∃ now, i = .pollBegin now ∧ s.edgePending = true ∧ t.edgePending = true ∧ t.edgeLevel = s.edgeLevel ∧
      t.pollBusy = true) ∨
    (i = .pollEnd ∧ t.edgePending = false ∧ t.edgeLevel = s.edgeLevel ∧ t.pollBusy = false) ∨
    (i = .reset ∧ t.edgePending = false ∧ t.pollBusy = false) := by
  rcases exec_cases i s t h with ⟨now, rfl, rfl⟩ | ⟨now, rfl, rfl⟩ | ⟨rfl, rfl⟩ | ⟨rfl, rfl⟩ | ⟨level, rfl, rfl⟩ |
    ⟨now, rfl, hb, hp, rfl⟩ | ⟨now, rfl, hn, rfl⟩ | ⟨rfl, hb, rfl⟩ | ⟨rfl, hb, rfl⟩ |
    ⟨b, rfl, hb, hp, rfl⟩ | ⟨b, rfl, hn, rfl⟩
  · exact .inl (by simp)
  · exact .inl (by simp)
  · exact .inl (by simp)
  · exact .inr (.inr (.inr (.inr ⟨rfl, rfl, rfl⟩)))
  · exact .inr (.inl ⟨rfl, rfl, rfl⟩)
  · exact .inr (.inr (.inl ⟨now, rfl, hp, by simp [hp], by simp, rfl⟩))
  · exact .inl (by simp)
  · exact .inr (.inr (.inr (.inl ⟨rfl, rfl, rfl, rfl⟩)))
  · exact .inl (by simp)
  · exact .inl (by simp)
  · exact .inl (by simp)

/-! ### The invariant -/

theorem exec_keeps_canonical {i : Instr} {s t : State} (hs : s.Inv) (h : exec i s = .next t) :
    Memory.wf t.buf = true := by
  rcases exec_buffer_cases h with ⟨hb, -, -⟩ | ⟨hb, -⟩ | ⟨bit, -, -, -, hb⟩ <;> rw [hb]
  · exact hs.canonical
  · exact Memory.wf_bufClear s.buf
  · exact Memory.wf_bufWrite _ _ hs.canonical

theorem exec_keeps_indexBound {i : Instr} {s t : State} (hs : s.Inv) (h : exec i s = .next t) :
    t.secondIndex.toNat ≤ 59 := by
  rcases exec_buffer_cases h with ⟨-, hn, -⟩ | ⟨-, hn⟩ | ⟨bit, hlt, -, hn, -⟩ <;> rw [hn]
  · exact hs.indexBound
  · simp
  · rw [toNat_add_one_of_lt hlt]
    omega

theorem exec_keeps_filledPrefix {i : Instr} {s t : State} (hs : s.Inv) (h : exec i s = .next t) (a : Nat)
    (ha : a < 59) :
    Memory.read t.buf a ≠ .unset ↔ a < t.secondIndex.toNat := by
  rcases exec_buffer_cases h with ⟨hb, hn, -⟩ | ⟨hb, hn⟩ | ⟨bit, hlt, -, hn, hb⟩ <;> rw [hb, hn]
  · exact hs.filledPrefix a ha
  · simp
  · rw [toNat_add_one_of_lt hlt]
    by_cases haw : a = s.secondIndex.toNat
    · subst haw
      simp [Memory.read_bufWrite_self _ _ _ hlt (Symbol.ofBit_ne_unset bit)]
    · rw [Memory.read_bufWrite_other _ _ _ _ (Symbol.ofBit_ne_unset bit) haw, hs.filledPrefix a ha]
      omega

theorem exec_keeps_acquiringEmpty {i : Instr} {s t : State} (hs : s.Inv) (h : exec i s = .next t)
    (ht : t.synchronized = false) :
    t.secondIndex = 0 ∧ ∀ a, a < 59 → Memory.read t.buf a = .unset := by
  rcases exec_buffer_cases h with ⟨hb, hn, hsync⟩ | ⟨hb, hn⟩ | ⟨bit, -, hsync, -, -⟩
  · rw [hb, hn]
    exact hs.acquiringEmpty (hsync ▸ ht)
  · simp [hb, hn]
  · simp [hsync] at ht

theorem exec_keeps_freshHasValue {i : Instr} {s t : State} (hs : s.Inv) (h : exec i s = .next t)
    (ht : t.telegramFresh = true) : t.tg.isSome = true := by
  rcases exec_telegram_cases h with ⟨b, -, hg, -, -⟩ | ⟨-, -, -, hf, -⟩ | ⟨-, -, -, hf, -⟩ | ⟨-, hg, hf, -⟩
  · simp [hg]
  · simp [hf] at ht
  · simp [hf] at ht
  · rw [hg]
    exact hs.freshHasValue (hf ▸ ht)

theorem exec_keeps_telegramInRange {i : Instr} {s t : State} (hs : s.Inv) (h : exec i s = .next t) (g : Telegram)
    (ht : t.tg = some g) : g.InRange := by
  rcases exec_telegram_cases h with ⟨b, -, hg, -, -⟩ | ⟨-, -, hg, -, -⟩ | ⟨-, -, hg, -, -⟩ | ⟨-, hg, -, -⟩ <;>
    rw [hg] at ht
  · exact Option.some.inj ht ▸ telegramOf_inRange b
  · cases ht
  · exact hs.telegramInRange g ht
  · exact hs.telegramInRange g ht

theorem exec_keeps_busyHasEdge {i : Instr} {s t : State} (hs : s.Inv) (h : exec i s = .next t)
    (ht : t.pollBusy = true) : t.edgePending = true := by
  rcases exec_mailbox_cases h with ⟨hp, -, hb⟩ | ⟨-, hp, -⟩ | ⟨now, -, -, hp, -, -⟩ | ⟨-, -, -, hb⟩ | ⟨-, -, hb⟩
  · rw [hp]
    exact hs.busyHasEdge (hb ▸ ht)
  · exact hp
  · exact hp
  · simp [hb] at ht
  · simp [hb] at ht

/-- Every operation keeps the invariant. -/
theorem exec_keeps_inv {i : Instr} {s t : State} (hs : s.Inv) (h : exec i s = .next t) : t.Inv where
  canonical       := exec_keeps_canonical hs h
  indexBound      := exec_keeps_indexBound hs h
  filledPrefix    := exec_keeps_filledPrefix hs h
  acquiringEmpty  := exec_keeps_acquiringEmpty hs h
  freshHasValue   := exec_keeps_freshHasValue hs h
  telegramInRange := exec_keeps_telegramInRange hs h
  busyHasEdge     := exec_keeps_busyHasEdge hs h

/-- The invariant speaks of no output, no label, no presented word and not of the caller's record. -/
theorem State.Inv.of_same_registers {s : State} (hs : s.Inv) (out : StepOut) (outcome : List Label)
    (input : List PortWord) (cal : Calendar) :
    State.Inv { s with out := out, outcome := outcome, input := input, cal := cal } :=
  { hs with }

/-- Every step keeps the invariant, whether or not it performs an operation. -/
theorem step_keeps_inv {s t : State} (hs : s.Inv) (h : step s = .next t) : t.Inv := by
  rcases step_cases s with ⟨-, hstep⟩ | ⟨p, rest, e, -, -, hstep⟩ | ⟨p, rest, i, -, -, hstep⟩ <;> rw [hstep] at h
  · exact Host.Outcome.next.inj h ▸ hs.of_same_registers {} [] s.input s.cal
  · exact Host.Outcome.next.inj h ▸ hs.of_same_registers {} [] rest s.cal
  · exact exec_keeps_inv (hs.of_same_registers s.out s.outcome rest s.cal) h

theorem State.resetWith_inv (c : Config) : (State.resetWith c).Inv where
  canonical       := Memory.wf_reset
  indexBound      := Nat.zero_le 59
  filledPrefix    := fun _ _ => by simp [State.resetWith]
  acquiringEmpty  := fun _ => ⟨rfl, fun _ _ => rfl⟩
  freshHasValue   := nofun
  telegramInRange := nofun
  busyHasEdge     := nofun

/-- The invariant holds of every reachable state. -/
theorem Reachable.inv {s : State} (h : Reachable s) : s.Inv := by
  induction h with
  | reset c => exact State.resetWith_inv c
  | step s t _ hstep ih => exact step_keeps_inv ih hstep
  | present s ws _ ih => exact ih.of_same_registers s.out s.outcome (s.input ++ serialise ws) s.cal
  | hostWriteCal s c _ ih => exact ih.of_same_registers s.out s.outcome s.input c

/-! ### The phase, and what keeps `synchronized` -/

theorem State.phase_eq_complete_iff (s : State) :
    s.phase = .complete ↔ s.synchronized = true ∧ 59 ≤ s.secondIndex.toNat := by
  unfold State.phase
  cases s.synchronized with
  | false => simp
  | true => by_cases h : s.secondIndex.toNat < 59 <;> simp [h]; omega

/-- Index 59 is reached only while synchronized, so it is the phase `Complete` (R34 item 5). -/
theorem State.Inv.index_eq_59_iff_complete {s : State} (hs : s.Inv) : s.secondIndex = 59 ↔ s.phase = .complete := by
  rw [State.phase_eq_complete_iff]
  constructor
  · intro h59
    refine ⟨?_, by simp [h59]⟩
    by_contra hacq
    have h0 := (hs.acquiringEmpty (by simpa using hacq)).1
    simp [h0] at h59
  · rintro ⟨-, hge⟩
    exact BitVec.eq_of_toNat_eq (le_antisymm hs.indexBound hge)

/-- The last slot is set exactly when the index has passed it (R34 item 5). -/
theorem State.Inv.slot_58_set_iff {s : State} (hs : s.Inv) :
    Memory.read s.buf 58 ≠ .unset ↔ s.secondIndex = 59 := by
  have hbound := hs.indexBound
  rw [hs.filledPrefix 58 (by omega), BitVec.toNat_inj.symm]
  change _ ↔ s.secondIndex.toNat = 59
  omega

theorem decode_reset_word {p : PortWord} (h : decode p = .ok .reset) : p = .reset 1#1 := by
  cases p with
  | reset line =>
    rcases bit1_cases line with rfl | rfl
    · cases h
    · rfl
  | take line | pollEnd line => rcases bit1_cases line with rfl | rfl <;> cases h
  | edge w =>
    simp only [decode] at h
    split at h <;> cases h
  | capture w | pollBegin w | frame w => cases h

/-- A step that does not perform `RESET` keeps `synchronized` (R34 item 4). -/
theorem step_keeps_synchronized {s t : State} (h : step s = .next t) (hs : s.synchronized = true)
    (hr : s.input.head? ≠ some (.reset 1#1)) : t.synchronized = true := by
  rcases step_cases s with ⟨-, hstep⟩ | ⟨p, rest, e, -, -, hstep⟩ | ⟨p, rest, i, hin, hd, hstep⟩ <;> rw [hstep] at h
  · exact Host.Outcome.next.inj h ▸ hs
  · exact Host.Outcome.next.inj h ▸ hs
  · refine (exec_synchronized_iff h).2 (.inl ⟨?_, hs⟩)
    rintro rfl
    exact hr (by simp [hin, decode_reset_word hd])

/-! ### The caller's record and the configuration -/

/-- No operation writes the configuration or the presented words (R44). -/
theorem exec_cfg_input {i : Instr} {s t : State} (h : exec i s = .next t) : t.cfg = s.cfg ∧ t.input = s.input := by
  cases exec_effect h <;> exact ⟨rfl, rfl⟩

theorem State.syncDetect_hostWriteCal (g : U32) (c : Calendar) (s : State) :
    ∃ d, (s.hostWriteCal c).syncDetect g = (s.syncDetect g).hostWriteCal d := by
  unfold State.syncDetect
  rw [State.hostWriteCal_cfg]
  split
  · exact ⟨{ c with second := 0 }, rfl⟩
  · exact ⟨c, rfl⟩

theorem State.validate_hostWriteCal (b : Frame) (c : Calendar) (s : State) :
    ∃ d, (s.hostWriteCal c).validate b = (s.validate b).hostWriteCal d := by
  unfold State.validate
  rw [State.hostWriteCal_cfg]
  split
  · exact ⟨projectToCalendar (telegramOf b), rfl⟩
  · exact ⟨c, rfl⟩

theorem State.complete_hostWriteCal (c : Calendar) (s : State) :
    ∃ d, (s.hostWriteCal c).complete = s.complete.hostWriteCal d := by
  unfold State.complete
  rw [State.hostWriteCal_buf]
  split
  · exact State.validate_hostWriteCal _ c s
  · exact ⟨c, rfl⟩

theorem State.store_hostWriteCal (bit : Bool) (c : Calendar) (s : State) :
    ∃ d, (s.hostWriteCal c).store bit = (s.store bit).hostWriteCal d := by
  have hstore : (s.hostWriteCal c).storeBit bit = (s.storeBit bit).hostWriteCal c := rfl
  unfold State.store
  simp only [hstore, State.hostWriteCal_secondIndex]
  split
  · exact State.complete_hostWriteCal c _
  · exact ⟨c, rfl⟩

theorem State.accumulateBit_hostWriteCal (w : U32) (bit : Bool) (c : Calendar) (s : State) :
    ∃ d, (s.hostWriteCal c).accumulateBit w bit = (s.accumulateBit w bit).hostWriteCal d := by
  unfold State.accumulateBit
  rw [State.hostWriteCal_synchronized, State.hostWriteCal_secondIndex]
  split
  · exact ⟨c, rfl⟩
  · split
    · exact ⟨c, rfl⟩
    · exact State.store_hostWriteCal bit c s

theorem State.accumulate_hostWriteCal (w : U32) (k : PulseClass) (c : Calendar) (s : State) :
    ∃ d, (s.hostWriteCal c).accumulate w k = (s.accumulate w k).hostWriteCal d := by
  cases k with
  | unrecognized => exact ⟨c, rfl⟩
  | zero => exact State.accumulateBit_hostWriteCal w false c s
  | one => exact State.accumulateBit_hostWriteCal w true c s

theorem State.edgeRise_hostWriteCal (now : U32) (c : Calendar) (s : State) :
    ∃ d, (s.hostWriteCal c).edgeRise now = (s.edgeRise now).hostWriteCal d := by
  have hm : (s.hostWriteCal c).measureGap now = s.measureGap now := rfl
  unfold State.edgeRise
  rw [hm]
  split
  · next m _ =>
    obtain ⟨d, hd⟩ := State.syncDetect_hostWriteCal m.widthMs c s
    exact ⟨d, by rw [hd]; rfl⟩
  · exact ⟨c, rfl⟩

theorem State.edgeFall_hostWriteCal (now : U32) (c : Calendar) (s : State) :
    ∃ d, (s.hostWriteCal c).edgeFall now = (s.edgeFall now).hostWriteCal d := by
  have hm : (s.hostWriteCal c).measurePulse now = s.measurePulse now := rfl
  unfold State.edgeFall
  rw [hm, State.hostWriteCal_cfg]
  split
  · next m _ =>
    obtain ⟨d, hd⟩ := State.accumulate_hostWriteCal m.widthMs (classify s.cfg m.widthMs) c s
    exact ⟨d, by rw [hd]; rfl⟩
  · exact ⟨c, rfl⟩

theorem State.edge_hostWriteCal (level : Bool) (now : U32) (c : Calendar) (s : State) :
    ∃ d, (s.hostWriteCal c).edge level now = (s.edge level now).hostWriteCal d := by
  cases level with
  | false => exact State.edgeFall_hostWriteCal now c s
  | true => exact State.edgeRise_hostWriteCal now c s

/-- Whatever the caller wrote to its record, an operation does the same to everything else (R40). -/
theorem exec_hostWriteCal (i : Instr) (s : State) (c : Calendar) :
    ∃ t d, exec i s = .next t ∧ exec i (s.hostWriteCal c) = .next (t.hostWriteCal d) := by
  have hstart : (s.hostWriteCal c).startOp = s.startOp.hostWriteCal c := rfl
  cases i with
  | edgeRise now =>
    obtain ⟨d, hd⟩ := State.edgeRise_hostWriteCal now c s.startOp
    exact ⟨_, d, rfl, by rw [exec_edgeRise, hstart, hd]⟩
  | edgeFall now =>
    obtain ⟨d, hd⟩ := State.edgeFall_hostWriteCal now c s.startOp
    exact ⟨_, d, rfl, by rw [exec_edgeFall, hstart, hd]⟩
  | take | reset | capture level => exact ⟨_, c, rfl, rfl⟩
  | pollBegin now =>
    by_cases hc : s.pollBusy = false ∧ s.edgePending = true
    · obtain ⟨d, hd⟩ := State.edge_hostWriteCal s.edgeLevel now c s.startOp
      refine ⟨_, d, exec_pollBegin_pending now s hc.1 hc.2, ?_⟩
      rw [exec_pollBegin_pending now (s.hostWriteCal c) hc.1 hc.2, hstart, State.hostWriteCal_edgeLevel, hd]
      rfl
    · exact ⟨_, c, exec_pollBegin_nothing now s hc, exec_pollBegin_nothing now (s.hostWriteCal c) hc⟩
  | pollEnd =>
    cases hb : s.pollBusy with
    | false => exact ⟨_, c, exec_pollEnd_nothing s hb, exec_pollEnd_nothing (s.hostWriteCal c) hb⟩
    | true => exact ⟨_, c, exec_pollEnd_busy s hb, exec_pollEnd_busy (s.hostWriteCal c) hb⟩
  | telegram b =>
    by_cases hc : Memory.toBits s.buf = some b ∧ parityOK s.cfg.parityMode b = true
    · exact ⟨_, projectToCalendar (telegramOf b), exec_telegram_invoked b s hc,
        exec_telegram_invoked b (s.hostWriteCal c) hc⟩
    · exact ⟨_, c, exec_telegram_not_invoked b s hc, exec_telegram_not_invoked b (s.hostWriteCal c) hc⟩

/-! ### The statements -/

/-- Settles O49: `exec_keeps_inv`, one field of the invariant at a time, carried through the cases of a step. -/
theorem everyStepKeepsTheInvariant : Obligations.EveryStepKeepsTheInvariant :=
  fun _ _ hs h => step_keeps_inv hs h

/-- Settles O46, by the writers of `exec_mailbox_cases`. -/
theorem mailboxWriters : Obligations.MailboxWriters := by
  intro i s t h
  rcases exec_mailbox_cases h with ⟨hp, hl, hb⟩ | ⟨rfl, hp, hb⟩ | ⟨now, rfl, hs, hp, hl, hb⟩ | ⟨rfl, hp, hl, hb⟩ |
    ⟨rfl, hp, hb⟩
  · simp +contextual [hp, hl, hb]
  · simp [hp, hb]
  · simp [hs, hp, hl, hb]
  · simp [hp, hl, hb]
  · simp [hp, hb]

/-- Settles O50, from the invariant of the reachable states. -/
theorem invariantsOfTheReachableStates : Obligations.InvariantsOfTheReachableStates := by
  intro s hreach
  have hs := hreach.inv
  exact ⟨hs.indexBound, hs.filledPrefix, hs.acquiringEmpty, ⟨hs.slot_58_set_iff, hs.index_eq_59_iff_complete⟩,
    fun _ h hsync hr => step_keeps_synchronized h hsync hr⟩

/-- Settles O52, by `exec_synchronized_iff`. -/
theorem synchronizedWriters : Obligations.SynchronizedWriters := by
  intro i s t h
  have hiff := exec_synchronized_iff h
  refine ⟨fun hs ht => ?_, fun g hg hgap => hiff.2 (.inr ⟨g, hg, hgap⟩), fun hs ht => ?_⟩
  · by_contra hr
    simp [hiff.2 (.inl ⟨hr, hs⟩)] at ht
  · rcases hiff.1 ht with ⟨-, hs'⟩ | hgap
    · simp [hs] at hs'
    · exact hgap

/-- Settles O55: the indicator and the label are both written by `storeBit` and by nothing else outside `RESET`. -/
theorem indicatorTogglesExactlyPerStoredBit : Obligations.IndicatorTogglesExactlyPerStoredBit := by
  intro i s t hr h
  cases exec_effect h with
  | fallStore | fallAssemble | fallParityFailure => simp
  | reset hreset => exact absurd hreset hr
  | _ => simp

/-- Settles O56, by `exec_telegram_cases`. -/
theorem telegramWriters : Obligations.TelegramWriters := by
  intro i s t h
  rcases exec_telegram_cases h with ⟨b, ho, hg, hf, hc⟩ | ⟨rfl, ho, hg, hf, hc⟩ | ⟨rfl, ho, hg, hf, hc⟩ |
    ⟨ho, hg, hf, hc⟩
  · exact ⟨fun _ => ⟨hf, _, hg, hc⟩, by simp [ho]⟩
  · simp [ho, hc]
  · simp [ho, hg, hc]
  · exact ⟨by simp [ho], fun _ => ⟨fun _ => hg, fun _ _ => hf, hc⟩⟩

/-- Settles O60, by `exec_hostWriteCal` and `exec_cfg_input`. -/
theorem calendarIsNeverReadAndConfigurationNeverWritten :
    Obligations.CalendarIsNeverReadAndConfigurationNeverWritten := by
  intro i s c
  obtain ⟨t, d, ht, ht'⟩ := exec_hostWriteCal i s c
  exact ⟨t, t.hostWriteCal d, ht, ht', rfl, exec_cfg_input ht⟩

/-- Settles O8, by what a step does with no word and with a word that is no operation. -/
theorem stepWithoutAnOperationChangesNoRegister : Obligations.StepWithoutAnOperationChangesNoRegister :=
  ⟨fun _ hin => step_of_no_word hin, fun _ _ _ _ hin hd => step_of_rejected_word hin hd⟩

/-- Settles O41: every value stands in `State.resetWith`. -/
theorem stateAfterReset : Obligations.StateAfterReset :=
  ⟨fun _ => ⟨rfl, rfl, rfl, rfl, fun _ => rfl, rfl, rfl, rfl, rfl, rfl, rfl, rfl⟩, rfl, rfl⟩

/-- Settles O48: the buffer is empty with index 0, and no Telegram, fresh flag or poll is there. -/
theorem invariantHoldsAfterReset : Obligations.InvariantHoldsAfterReset := State.resetWith_inv

end Sys2Proof.Machine

/-! Proofs about the buffer and its decoding (20_memory.md): when `ToBits` answers and what the answer depends on, which
bits of a frame are read, what a falling edge that assembles a Telegram writes, and the operation a step performs. -/

namespace Sys2Proof.Machine

/-! ### `ToBits` (R65) -/

theorem Symbol.bit_eq_some_iff (c : Symbol) (bit : Bool) : c.bit = some bit ↔ c = Symbol.ofBit bit := by
  cases c <;> cases bit <;> decide

theorem Memory.toBits_congr {m m' : Memory} (h : ∀ a, a < 59 → Memory.read m a = Memory.read m' a) :
    Memory.toBits m = Memory.toBits m' :=
  Option.ext fun b => by
    rw [Memory.toBits_eq_some, Memory.toBits_eq_some]
    exact forall₂_congr fun a ha => by rw [h a ha]

/-- At index 59 the invariant fills every slot (R34 item 2). -/
theorem State.Inv.toBits_at_index_59 {s : State} (hs : s.Inv) (h59 : s.secondIndex = 59) :
    ∃ b, Memory.toBits s.buf = some b := by
  refine Option.ne_none_iff_exists'.1 fun hnone => ?_
  obtain ⟨i, hi, hunset⟩ := (Memory.toBits_eq_none s.buf).1 hnone
  exact (hs.filledPrefix i hi).2 (by simpa [h59] using hi) hunset

/-! ### The bits of a frame that are read (R67) -/

section
variable {b b' : Frame}

theorem bcd_congr {first count : Nat} (h : ∀ i, first ≤ i → i < first + count → b.getLsbD i = b'.getLsbD i) :
    bcd b first count = bcd b' first count :=
  congrArg List.sum <| List.map_congr_left fun i hi => by
    rw [h (first + i) (by omega) (by have := List.mem_range.1 hi; omega)]

theorem groupParity_congr {lo hi : Nat} (h : ∀ i, lo ≤ i → i < hi → b.getLsbD i = b'.getLsbD i) :
    groupParity b lo hi = groupParity b' lo hi := by
  have hbits : frameBits b lo (hi - lo) = frameBits b' lo (hi - lo) :=
    List.map_congr_left fun i hi => h (lo + i) (by omega) (by have := List.mem_range.1 hi; omega)
  rw [groupParity, groupParity, onesIn, onesIn, hbits]

/-- The fields of R183 lie in `[17,19)` and `[21,58)`. -/
theorem fieldsOf_congr (h : ∀ i, (17 ≤ i ∧ i < 19 ∨ 21 ≤ i ∧ i < 59) → b.getLsbD i = b'.getLsbD i) :
    fieldsOf b = fieldsOf b' := by
  have field (first count : Nat) (hin : 17 ≤ first ∧ first + count ≤ 19 ∨ 21 ≤ first ∧ first + count ≤ 59) :
      bcd b first count = bcd b' first count :=
    bcd_congr fun i hlo hhi => h i (by omega)
  unfold fieldsOf
  rw [field 17 2 (by omega), field 21 7 (by omega), field 29 6 (by omega), field 36 6 (by omega),
    field 42 3 (by omega), field 45 5 (by omega), field 50 8 (by omega)]

/-- The groups of R172 and R173 lie in `[21,59)`. -/
theorem parityOK_congr (mode : ParityMode) (h : ∀ i, 21 ≤ i → i < 59 → b.getLsbD i = b'.getLsbD i) :
    parityOK mode b = parityOK mode b' := by
  have group (lo hi : Nat) (hlo : 21 ≤ lo) (hhi : hi ≤ 59) : groupParity b lo hi = groupParity b' lo hi :=
    groupParity_congr fun i hli hih => h i (by omega) (by omega)
  cases mode with
  | perField =>
    simp only [parityOK, okMinutes, okHours, okDate, group 21 29 (by omega) (by omega),
      group 29 36 (by omega) (by omega), group 36 59 (by omega) (by omega)]
  | combinedLegacy => simp only [parityOK, parityCombined, group 21 59 (by omega) (by omega)]

end

/-! ### A falling edge that assembles a Telegram (R81) -/

/-- A falling edge drives the strobe only where it assembles, and then from the frame of the buffer it leaves. -/
theorem exec_edgeFall_strobe {s t : State} {now : U32} (h : exec (.edgeFall now) s = .next t)
    (hstrobe : t.out.telegramStrobe = true) :
    ∃ b, Memory.toBits t.buf = some b ∧ t.tg = some (telegramOf b) ∧ t.cal = projectToCalendar (telegramOf b) := by
  obtain rfl := Host.Outcome.next.inj h
  rcases State.edgeFall_cases now s.startOp with ⟨-, heq⟩ | ⟨r, -, -, heq⟩ | ⟨r, bit, -, -, -, heq⟩ |
    ⟨r, bit, -, -, -, -, heq⟩ | ⟨r, bit, -, -, -, hlt, heq⟩ <;> rw [heq] at hstrobe ⊢
  · simp at hstrobe
  · simp at hstrobe
  · simp at hstrobe
  · simp at hstrobe
  · rcases State.store_cases bit _ hlt with ⟨-, hst⟩ | ⟨-, -, hst⟩ | ⟨b, -, hb, -, hst⟩ | ⟨b, -, -, -, hst⟩ <;>
      rw [hst] at hstrobe ⊢
    · simp at hstrobe
    · simp at hstrobe
    · exact ⟨b, hb, rfl, rfl⟩
    · simp at hstrobe

/-! ### The step that performs an operation (R72) -/

theorem step_of_decoded_word {s : State} {p : PortWord} {rest : List PortWord} {i : Instr}
    (hin : s.input = p :: rest) (hd : decode p = .ok i) : step s = exec i { s with input := rest } := by
  simp [step, State.fetch, hin, hd]

/-! ### The statements -/

/-- Settles O24, by the two laws of `ToBits` and, at index 59, the invariant (`filledPrefix`). -/
theorem toBitsAnswersAtIndex59 : Obligations.ToBitsAnswersAtIndex59 := by
  refine ⟨fun m b => ?_, Memory.toBits_eq_none, fun s hs h59 => ?_⟩
  · simp only [Symbol.bit_eq_some_iff]
    exact Memory.toBits_eq_some m b
  · obtain ⟨b, hb⟩ := hs.toBits_at_index_59 h59
    exact ⟨b, hb, (Memory.toBits_eq_some s.buf b).1 hb⟩

/-- Settles O36: every field and every parity group lies inside the bits on which the frames agree. -/
theorem unassignedBitsAreIgnored : Obligations.UnassignedBitsAreIgnored := by
  intro mode b b' h
  refine ⟨?_, parityOK_congr mode fun i hlo hhi => h i (.inr ⟨hlo, hhi⟩)⟩
  rw [telegramOf, telegramOf, fieldsOf_congr h]

/-- Settles O38: both edges assemble the frame of the buffer they leave, and buffers that read the same give one frame. -/
theorem decodingDependsOnTheBufferAlone : Obligations.DecodingDependsOnTheBufferAlone := by
  intro s s' t t' now now' h h' hstrobe hstrobe' hread
  obtain ⟨b, hb, htg, hcal⟩ := exec_edgeFall_strobe h hstrobe
  obtain ⟨b', hb', htg', hcal'⟩ := exec_edgeFall_strobe h' hstrobe'
  have hframe : b = b' := by
    rw [Memory.toBits_congr hread, hb'] at hb
    exact (Option.some.inj hb).symm
  subst hframe
  exact ⟨htg.trans htg'.symm, hcal.trans hcal'.symm, hcal ▸ rfl, hcal' ▸ rfl⟩

/-- Settles O7, by what a step does with a word that decodes to an operation. -/
theorem stepPerformsTheDecodedOperation : Obligations.StepPerformsTheDecodedOperation :=
  fun _ _ _ _ hin hd => step_of_decoded_word hin hd

end Sys2Proof.Machine

/-! Proofs about the encodings (30_encoding.md): a presented word and its operation, the reading of a table word, the
codes of a symbol, the words of the SyncState. `decode_encode` and `eq_encode_of_decode` are the round trip of R90;
the other statements about port words lean on the same rules for a strobe line and for an `EV33` word. -/

namespace Sys2Proof

/-! ### A strobe line (R97) -/

theorem strobe_eq_ok_iff {port : Port} {i j : Instr} {line : BitVec 1} :
    strobe port i line = .ok j ↔ line = 1#1 ∧ i = j := by
  rcases bit1_cases line with rfl | rfl <;> simp [strobe]

theorem strobe_rejects_iff {port : Port} {i : Instr} {line : BitVec 1} :
    (∃ e, strobe port i line = .error e) ↔ line = 0#1 := by
  rcases bit1_cases line with rfl | rfl <;> simp [strobe]

/-! ### An `EV33` word (R91, R100) -/

theorem decode_packEdge (level : Bool) (t : U32) :
    decode (.edge (packEdge level t)) = .ok (if level then .edgeRise t else .edgeFall t) := by
  rw [decode, packEdge_level, packEdge_timestamp]

/-- Bit 32 is the highest bit of the word, so it is set from `2^32` on. -/
theorem edgeWord_level_iff (w : BitVec 33) : w.getLsbD 32 = true ↔ 2 ^ 32 ≤ w.toNat := by
  change w.msb = true ↔ _
  rw [BitVec.msb_eq_decide, decide_eq_true_iff]

/-! ### The round trip (R90) -/

theorem decode_encode (i : Instr) : decode (encode i) = .ok i := by
  cases i with
  | edgeRise t => exact decode_packEdge true t
  | edgeFall t => exact decode_packEdge false t
  | capture level => cases level <;> rfl
  | take | reset | pollBegin now | pollEnd | telegram b => rfl

theorem eq_encode_of_decode {p : PortWord} {i : Instr} (h : decode p = .ok i) : p = encode i := by
  cases p with
  | edge w =>
    obtain ⟨level, t, rfl⟩ : ∃ level t, w = packEdge level t := ⟨_, _, (packEdge_fields w).symm⟩
    rw [decode_packEdge] at h
    cases level with
    | false | true =>
      cases h
      rfl
  | take line | reset line | pollEnd line =>
    obtain ⟨rfl, rfl⟩ := strobe_eq_ok_iff.1 h
    rfl
  | capture w =>
    cases h
    rcases bit1_cases w with rfl | rfl <;> rfl
  | pollBegin w | frame w =>
    cases h
    rfl

/-! ### Table words (R90) -/

/-- What the decoder reads from a table word is what it reads from the port word the table word stands for. -/
theorem decodeTableWord_of_decode {nbits w : Nat} {p : PortWord} {i : Instr} (hw : tableWord nbits w = .ok p)
    (hd : decode p = .ok i) : decodeTableWord nbits w = some i := by
  rw [decodeTableWord, hw, Except.bind, hd, Except.toOption]

/-- The port word that a port word's own table word reads as: the one-bit lines share their words (log entry 11). -/
def PortWord.tableReading : PortWord → PortWord
  | .take line | .reset line | .capture line | .pollEnd line => oneBitWord line
  | p => p

theorem tableWord_toTable (p : PortWord) : tableWord p.toTable.1 p.toTable.2 = .ok p.tableReading := by
  cases p with
  | edge w => exact exactly_toNat 40 w .edge
  | take line | reset line | capture line | pollEnd line => exact exactly_toNat 8 line oneBitWord
  | pollBegin w => exact exactly_toNat 32 w .pollBegin
  | frame w => exact exactly_toNat 64 w .frame

/-- The operation that an operation's table word reads as. -/
def Instr.tableReading (i : Instr) : Instr :=
  if i = .reset ∨ i = .pollEnd ∨ i = .capture true then .take else i

theorem tableReading_encode (i : Instr) : (encode i).tableReading = encode i.tableReading := by
  cases i with
  | capture level => cases level <;> rfl
  | _ => rfl

end Sys2Proof

namespace Sys2Proof.Machine

/-! ### Symbol codes (R92) -/

theorem symbolOfCode_code (c : Symbol) : symbolOfCode c.code = some c := by
  cases c <;> rfl

theorem eq_code_of_symbolOfCode {w : BitVec 2} {c : Symbol} (h : symbolOfCode w = some c) : w = c.code := by
  unfold symbolOfCode at h
  split_ifs at h with h0 h2 h3 <;> cases h <;> assumption

/-! ### The SyncState word (R94) -/

theorem State.syncStateWord_toNat (s : State) :
    s.syncStateWord.toNat = 256 * s.synchronized.toNat + s.secondIndex.toNat := by
  rw [State.syncStateWord, BitVec.toNat_append, ← Nat.shiftLeft_add_eq_or_of_lt s.secondIndex.isLt, BitVec.toNat_ofBool,
    Nat.shiftLeft_eq]
  omega

/-! ### The statements -/

/-- Settles O3, by the round trip of each direction. -/
theorem decodeAndEncodeAgree : Obligations.DecodeAndEncodeAgree :=
  fun _ i => ⟨eq_encode_of_decode, fun h => h ▸ decode_encode i⟩

/-- Settles O5: the table word reads as the port word of the operation named, and that word decodes to it. -/
theorem tableWordsReadBack : Obligations.TableWordsReadBack := fun i =>
  decodeTableWord_of_decode (i := i.tableReading) (tableWord_toTable (encode i))
    (tableReading_encode i ▸ decode_encode i.tableReading)

/-- Settles O51: by the invariant the index is 0 while acquiring and at most 59 while synchronized. -/
theorem reachableSyncStateWords : Obligations.ReachableSyncStateWords := by
  intro s hreach
  have hword := s.syncStateWord_toNat
  have hbound := hreach.inv.indexBound
  cases hsync : s.synchronized with
  | false =>
    have hzero := (hreach.inv.acquiringEmpty hsync).1
    exact .inl (BitVec.eq_of_toNat_eq (by simp [hword, hsync, hzero]))
  | true =>
    refine .inr ⟨s.secondIndex.toNat, hbound, BitVec.eq_of_toNat_eq ?_⟩
    simp [hword, hsync]
    omega

/-- Settles O1: each word written out is the encoding of its operation. -/
theorem specWordsDecode : Obligations.SpecWordsDecode :=
  ⟨decode_encode (.edgeRise 1000#32), decode_encode (.edgeFall 1100#32), decode_encode (.edgeRise 4294963796#32),
    decode_encode (.edgeFall 4294963896#32), decode_encode .take, decode_encode .reset, decode_encode (.capture true),
    decode_encode (.capture false), decode_encode (.pollBegin 5000#32), decode_encode .pollEnd,
    decode_encode (.telegram 5#59)⟩

/-- Settles O2: the timestamp is the low 32 bits, and bit 32 is set from `2^32` on. -/
theorem edgeWordDecodingIsTotal : Obligations.EdgeWordDecodingIsTotal := fun w =>
  ⟨w.extractLsb' 0 32, by simp, by simp only [decode, edgeWord_level_iff]⟩

/-- Settles O4: only a strobe line can be rejected, and it is rejected at 0. -/
theorem onlyIdleStrobesAreRejected : Obligations.OnlyIdleStrobesAreRejected := by
  intro p
  cases p with
  | take line | reset line | pollEnd line => simp [decode, strobe_rejects_iff]
  | edge w | capture w | pollBegin w | frame w => simp [decode]

/-- Settles O6: the three codes are distinct, and `symbolOfCode` tests for exactly these. -/
theorem symbolCodesReadBack : Obligations.SymbolCodesReadBack :=
  ⟨fun _ c => ⟨eq_code_of_symbolOfCode, fun h => h ▸ symbolOfCode_code c⟩, rfl, rfl, rfl, rfl⟩

end Sys2Proof.Machine

/-! Proofs about the edge classifier (40_edge_classifier.md): widths and the two pulse windows, and what the two `EDGE`
operations leave unchanged. Widths are compared as naturals through `toNat_sub32` and `toNat_sub32_of_latencies`; the
frames rest on what each operation does to the timestamps, the minute boundary and the slots. -/

namespace Sys2Proof

theorem Config.wf_iff (c : Config) :
    c.wf = true ↔ c.minSyncGap ≤ c.maxSyncGap ∧ (c.p0 : Int) + c.jitter < (c.p1 : Int) - c.jitter := by
  simp [Config.wf]

end Sys2Proof

namespace Sys2Proof.Machine

/-! ### Widths (R122) -/

theorem toNat_sub32 (now earlier : U32) :
    (sub32 now earlier).toNat = (2 ^ 32 + now.toNat - earlier.toNat) % 2 ^ 32 := by
  rw [sub32, BitVec.toNat_sub]
  omega

/-- A pulse of width `p` whose edges are consumed `d1` and `d2` late is measured `d2 - d1` wider, wherever the clock
wraps, as long as the result itself is a `u32` (R133). -/
theorem toNat_sub32_of_latencies {p : Nat} {d1 d2 : U32} (e : U32) (hlo : d1.toNat ≤ p + d2.toNat)
    (hhi : p + d2.toNat < 2 ^ 32 + d1.toNat) :
    (sub32 (e + BitVec.ofNat 32 p + d2) (e + d1)).toNat = p + d2.toNat - d1.toNat := by
  simp only [toNat_sub32, BitVec.toNat_add, BitVec.toNat_ofNat]
  omega

/-! ### The two pulse windows (R126, R127) -/

theorem classify_eq_zero_iff (c : Config) (w : U32) :
    classify c w = .zero ↔ (c.p0 : Int) - c.jitter ≤ w.toNat ∧ (w.toNat : Int) ≤ c.p0 + c.jitter := by
  rw [← inWin_iff, classify]
  split_ifs with h0 h1
  · simp [h0]
  · simp [h0]
  · simp [h0]

theorem classify_eq_one_iff (c : Config) (w : U32) :
    classify c w = .one ↔ ¬ ((c.p0 : Int) - c.jitter ≤ w.toNat ∧ (w.toNat : Int) ≤ c.p0 + c.jitter) ∧
      (c.p1 : Int) - c.jitter ≤ w.toNat ∧ (w.toNat : Int) ≤ c.p1 + c.jitter := by
  rw [← inWin_iff, ← inWin_iff, classify]
  split_ifs with h0 h1
  · simp [h0]
  · simp [h0, h1]
  · simp [h1]

/-! ### The timestamps (R131) -/

theorem State.edgeRise_of_no_fall {s : State} (now : U32) (h : s.tFall = none) :
    s.edgeRise now = { s.signal .noMeasurement with tRise := some now } := by
  simp [State.edgeRise, State.measureGap, h]

theorem State.edgeFall_of_no_rise {s : State} (now : U32) (h : s.tRise = none) :
    s.edgeFall now = { s.signal .noMeasurement with tFall := some now } := by
  simp [State.edgeFall, State.measurePulse, h]

/-- What an operation other than `RESET` does to the timestamps: it keeps both, or records one. -/
theorem exec_timestamp_cases {i : Instr} {s t : State} (hr : i ≠ .reset) (h : exec i s = .next t) :
    (t.tRise = s.tRise ∧ t.tFall = s.tFall) ∨
    (∃ now, t.tRise = some now ∧ t.tFall = s.tFall) ∨
    (∃ now, t.tRise = s.tRise ∧ t.tFall = some now) := by
  cases exec_effect h with
  | riseUnmeasured now | riseSync now | riseIdle now => exact .inr (.inl ⟨now, rfl, rfl⟩)
  | fallUnmeasured now | fallUnrecognized now | fallAcquiring now | fallOverrun now | fallStore now | fallAssemble now
  | fallParityFailure now => exact .inr (.inr ⟨now, rfl, rfl⟩)
  | reset hreset => exact absurd hreset hr
  | _ => exact .inl ⟨rfl, rfl⟩

/-! ### The minute boundary and the slots (R128, R129) -/

/-- Only a measured sync gap signals the minute boundary. -/
theorem exec_minuteBoundary_iff {i : Instr} {s t : State} (h : exec i s = .next t) :
    t.out.minuteBoundary = true ↔ ∃ g, s.gapMeasured i = some g ∧ isSyncGap s.cfg g = true := by
  cases exec_effect h with
  | riseSync now g busy he hr ht hg hw hs | riseIdle now g busy he hr ht hg hw hs => simp [hg, hs]
  | _ => simp_all

theorem exec_edgeFall_minuteBoundary {s t : State} {now : U32} (h : exec (.edgeFall now) s = .next t) :
    t.out.minuteBoundary = false := by
  have hiff := exec_minuteBoundary_iff h
  simpa [State.gapMeasured, State.edgeOf] using hiff

/-- Without a minute boundary or a `RESET` an operation writes at most slot `secondIndex`. -/
theorem exec_read_other_slot {i : Instr} {s t : State} {a : Nat} (hr : i ≠ .reset) (h : exec i s = .next t)
    (hm : t.out.minuteBoundary = false) (ha : a ≠ s.secondIndex.toNat) :
    Memory.read t.buf a = Memory.read s.buf a := by
  cases exec_effect h with
  | riseSync => simp at hm
  | reset hreset => exact absurd hreset hr
  | fallStore now w bit | fallAssemble now w bit | fallParityFailure now w bit =>
    exact Memory.read_bufWrite_other _ _ _ _ (Symbol.ofBit_ne_unset bit) ha
  | _ => rfl

/-- What `EDGE.RISE` does to the buffer, its index, `cal` and the outputs: it starts the minute, or keeps them all. -/
theorem exec_edgeRise_cases {s t : State} {now : U32} (h : exec (.edgeRise now) s = .next t) :
    (t.buf = [] ∧ t.cal = { s.cal with second := 0 } ∧ t.out = { minuteBoundary := true }) ∨
    (t.buf = s.buf ∧ t.synchronized = s.synchronized ∧ t.secondIndex = s.secondIndex ∧ t.cal = s.cal ∧
      t.out = {}) := by
  obtain rfl := Host.Outcome.next.inj h
  rcases State.edgeRise_cases now s.startOp with ⟨-, heq⟩ | ⟨f, -, -, heq⟩ | ⟨f, -, -, heq⟩ <;> rw [heq]
  · exact .inr ⟨rfl, rfl, rfl, rfl, rfl⟩
  · exact .inl ⟨rfl, rfl, rfl⟩
  · exact .inr ⟨rfl, rfl, rfl, rfl, rfl⟩

/-- A falling edge that drives no telegram strobe leaves the Telegram and the caller's record alone. -/
theorem exec_edgeFall_telegram {s t : State} {now : U32} (h : exec (.edgeFall now) s = .next t)
    (hstrobe : t.out.telegramStrobe = false) :
    t.tg = s.tg ∧ t.telegramFresh = s.telegramFresh ∧ t.cal = s.cal := by
  have hm := exec_edgeFall_minuteBoundary h
  rcases exec_telegram_cases h with ⟨b, ho, -, -, -⟩ | ⟨hi, -⟩ | ⟨hi, -⟩ | ⟨-, hg, hf, hc | ⟨hm', -⟩⟩
  · simp [hstrobe] at ho
  · cases hi
  · cases hi
  · exact ⟨hg, hf, hc⟩
  · simp [hm] at hm'

/-! ### The statements -/

/-- Settles O11, by the two windows; under the defaults they are intervals of numerals. -/
theorem classifyFollowsTheWindows : Obligations.ClassifyFollowsTheWindows := by
  refine ⟨fun c w => ⟨classify_eq_zero_iff c w, classify_eq_one_iff c w⟩, fun w => ?_⟩
  rw [classify_eq_zero_iff, classify_eq_one_iff]
  simp only [Config.default]
  omega

/-- Settles O13: each measured width lies within `JITTER` of its nominal width, and R10 keeps the windows apart. -/
theorem jitterAbsorbsThePollLatency : Obligations.JitterAbsorbsThePollLatency := by
  intro c e d1 d2 hwf hp0 hp1 h1 h2
  obtain ⟨-, hapart⟩ := c.wf_iff.1 hwf
  have hw0 := toNat_sub32_of_latencies (p := c.p0) (d1 := d1) (d2 := d2) e (by omega) (by omega)
  have hw1 := toNat_sub32_of_latencies (p := c.p1) (d1 := d1) (d2 := d2) e (by omega) (by omega)
  rw [classify_eq_zero_iff, classify_eq_one_iff, hw0, hw1]
  omega

/-- Settles O16: without the other timestamp an edge only signals `NoMeasurement`, and each operation but `RESET` keeps
or records a timestamp. -/
theorem firstEdgesOnlyRecordTheirTimestamp : Obligations.FirstEdgesOnlyRecordTheirTimestamp := by
  refine ⟨fun s now h => ?_, fun s now h => ?_, fun s t now h => ?_, fun s t now h => ?_, fun i s t hr h => ?_⟩
  · have hf : s.startOp.tFall = none := by simpa [State.tFallValid] using h
    rw [exec_edgeRise, State.edgeRise_of_no_fall now hf]
    rfl
  · have hr : s.startOp.tRise = none := by simpa [State.tRiseValid] using h
    rw [exec_edgeFall, State.edgeFall_of_no_rise now hr]
    rfl
  · obtain rfl := Host.Outcome.next.inj h
    rfl
  · obtain rfl := Host.Outcome.next.inj h
    rfl
  · unfold State.tRiseValid State.tFallValid
    rcases exec_timestamp_cases hr h with ⟨hR, hF⟩ | ⟨now, hR, hF⟩ | ⟨now, hR, hF⟩ <;> simp [hR, hF]

/-- Settles O17: the frame laws of `State.edgeRise` keep the registers, and its two cases give the rest. -/
theorem risingEdgeFrame : Obligations.RisingEdgeFrame := by
  intro s t now h
  have hcases := exec_edgeRise_cases h
  obtain rfl := Host.Outcome.next.inj h
  rcases hcases with ⟨hbuf, hcal, hout⟩ | ⟨hbuf, hsync, hindex, hcal, hout⟩
  · simp [hbuf, hcal, hout]
  · simp [hbuf, hsync, hindex, hcal, hout]

/-- Settles O25: the frame laws of `State.edgeFall` keep the registers; a falling edge measures no gap, so it signals
no minute boundary and writes no slot but its own. -/
theorem fallingEdgeFrame : Obligations.FallingEdgeFrame := by
  intro s t now h
  have hm := exec_edgeFall_minuteBoundary h
  have htelegram := exec_edgeFall_telegram h
  have hslots : ∀ a, a ≠ s.secondIndex.toNat → Memory.read t.buf a = Memory.read s.buf a :=
    fun a ha => exec_read_other_slot (by simp) h hm ha
  obtain rfl := Host.Outcome.next.inj h
  simpa [hm] using ⟨htelegram, hslots⟩

/-- Settles O10, by the modular difference of `toNat_sub32`. -/
theorem widthIsTheModularDifference : Obligations.WidthIsTheModularDifference := by
  refine ⟨fun now earlier => ?_, rfl⟩
  have hsub := toNat_sub32 now earlier
  refine ⟨hsub, ?_, ?_, ?_⟩
  · rintro rfl
    omega
  · omega
  · omega

end Sys2Proof.Machine

/-! Proofs about the synchronizer (41_synchronizer.md): the sync window, what `EDGE.RISE` does with a measured gap, who
writes `secondIndex`, and the table of phases. Both statements on the sequencing registers rest on
`exec_sequencing_cases`, which pairs each change of them with what the operation measured. -/

namespace Sys2Proof.Machine

/-! ### The sync window and the rising edge (R141, R145 to R147) -/

theorem isSyncGap_iff (c : Config) (g : U32) :
    isSyncGap c g = true ↔ (c.minSyncGap : Int) - c.jitter ≤ g.toNat ∧ (g.toNat : Int) ≤ c.maxSyncGap + c.jitter :=
  inWin_iff g c.minSyncGap c.maxSyncGap c.jitter

theorem exec_edgeRise_of_syncGap {s : State} {now f : U32} (hf : s.tFall = some f)
    (hg : isSyncGap s.cfg (sub32 now f) = true) :
    exec (.edgeRise now) s = .next { s.startOp.syncFire (sub32 now f) with tRise := some now } := by
  simp [exec_edgeRise, State.edgeRise, State.measureGap, State.syncDetect, hf, hg]

theorem exec_edgeRise_of_ordinaryGap {s : State} {now f : U32} (hf : s.tFall = some f)
    (hg : isSyncGap s.cfg (sub32 now f) = false) :
    exec (.edgeRise now) s = .next { s.startOp.syncIdle (sub32 now f) with tRise := some now } := by
  simp [exec_edgeRise, State.edgeRise, State.measureGap, State.syncDetect, hf, hg]

/-! ### The phase (10_state.md R32) -/

theorem State.phase_eq_synchronizing_iff (s : State) (k : Nat) :
    s.phase = .synchronizing k ↔ s.synchronized = true ∧ s.secondIndex.toNat = k ∧ k < 59 := by
  unfold State.phase
  cases s.synchronized with
  | false => simp
  | true => by_cases h : s.secondIndex.toNat < 59 <;> simp [h] <;> omega

theorem State.phase_congr {s t : State} (hsync : t.synchronized = s.synchronized)
    (hindex : t.secondIndex = s.secondIndex) : t.phase = s.phase := by
  simp only [State.phase, hsync, hindex]

/-! ### The table of phase transitions (R150), row by row -/

section
variable {s : State} {i : Instr}

theorem State.phaseAfter_of_syncGap {g : U32} (hr : i ≠ .reset) (hg : s.gapMeasured i = some g)
    (hs : isSyncGap s.cfg g = true) : s.phaseAfter i = .synchronizing 0 := by
  simp [State.phaseAfter, hg, hs]

theorem State.phaseAfter_of_bit {w : U32} {bit : Bool} {k : Nat} (hr : i ≠ .reset) (hg : s.gapMeasured i = none)
    (hw : s.pulseMeasured i = some w) (hc : classify s.cfg w = .ofBit bit) (hp : s.phase = .synchronizing k) :
    s.phaseAfter i = if k = 58 then .complete else .synchronizing (k + 1) := by
  simp [State.phaseAfter, hg, hw, hc, hp]

/-- The cases the table does not list. -/
theorem State.phaseAfter_of_no_transition (hr : i ≠ .reset)
    (hgap : ∀ g, s.gapMeasured i = some g → isSyncGap s.cfg g = false)
    (hpulse : ∀ w bit k, s.pulseMeasured i = some w → classify s.cfg w = .ofBit bit → s.phase ≠ .synchronizing k) :
    s.phaseAfter i = s.phase := by
  unfold State.phaseAfter
  split
  · contradiction
  · next hg => simp [hgap _ hg]
  · next w k _ hp hw _ =>
    rcases PulseClass.cases_bit (classify s.cfg w) with hc | ⟨bit, hc⟩
    · simp [hc, hp]
    · exact absurd hp (hpulse w bit k hw hc)
  · rfl

end

/-! ### What an operation does to the sequencing registers (R146, R149) -/

/-- What an operation other than `RESET` does to `synchronized` and `secondIndex`, and what it measured: it keeps both,
on a sync gap it starts the minute, on a recognized pulse while `Synchronizing` it advances the index. -/
theorem exec_sequencing_cases {i : Instr} {s t : State} (hr : i ≠ .reset) (h : exec i s = .next t) :
    (t.synchronized = s.synchronized ∧ t.secondIndex = s.secondIndex ∧
      (∀ g, s.gapMeasured i = some g → isSyncGap s.cfg g = false) ∧
      ∀ w bit k, s.pulseMeasured i = some w → classify s.cfg w = .ofBit bit → s.phase ≠ .synchronizing k) ∨
    (t.synchronized = true ∧ t.secondIndex = 0 ∧ ∃ g, s.gapMeasured i = some g ∧ isSyncGap s.cfg g = true) ∨
    (s.synchronized = true ∧ s.secondIndex.toNat < 59 ∧ t.synchronized = true ∧
      t.secondIndex.toNat = s.secondIndex.toNat + 1 ∧ s.gapMeasured i = none ∧
      ∃ w bit, s.pulseMeasured i = some w ∧ classify s.cfg w = .ofBit bit) := by
  cases exec_effect h with
  | riseSync now g busy he _ ht hg hw hs => exact .inr (.inl ⟨rfl, rfl, g, hg, hs⟩)
  | riseIdle now g busy he _ ht hg hw hs => exact .inl ⟨rfl, rfl, by simp [hg, hs], by simp [hw]⟩
  | fallUnrecognized now w busy he _ ht hg hw hc =>
    refine .inl ⟨rfl, rfl, by simp [hg], fun w' bit _ hw' hc' => ?_⟩
    obtain rfl : w = w' := Option.some.inj (hw.symm.trans hw')
    exact absurd (hc'.symm.trans hc) (PulseClass.ofBit_ne_unrecognized bit)
  | fallAcquiring now w bit busy he _ ht hg hw hc hs =>
    exact .inl ⟨rfl, rfl, by simp [hg], by simp [State.phase_eq_synchronizing_iff, hs]⟩
  | fallOverrun now w bit busy he _ ht hg hw hc hs hi =>
    exact .inl ⟨rfl, rfl, by simp [hg], fun _ _ k _ _ hp => by
      obtain ⟨-, hk, hlt⟩ := (s.phase_eq_synchronizing_iff k).1 hp
      omega⟩
  | fallStore now w bit busy he _ ht hg hw hc hs hi =>
    exact .inr (.inr ⟨hs, hi, hs, toNat_add_one_of_lt hi, hg, w, bit, hw, hc⟩)
  | fallAssemble now w bit b busy he _ ht hg hw hc hs hi
  | fallParityFailure now w bit b busy he _ ht hg hw hc hs hi =>
    have hlt : s.secondIndex.toNat < 59 := by omega
    exact .inr (.inr ⟨hs, hlt, hs, toNat_add_one_of_lt hlt, hg, w, bit, hw, hc⟩)
  | reset hreset => exact absurd hreset hr
  | _ => exact .inl ⟨rfl, rfl, by simp_all, by simp_all⟩

/-! ### The statements -/

/-- Settles O53, by `exec_sequencing_cases`. -/
theorem secondIndexWriters : Obligations.SecondIndexWriters := by
  intro i s t hr h
  rcases exec_sequencing_cases hr h with ⟨-, hkept, -⟩ | ⟨-, h0, hgap⟩ | ⟨-, hlt, -, hnext, -, hpulse⟩
  · exact .inl hkept
  · exact .inr (.inr ⟨h0, hgap⟩)
  · exact .inr (.inl ⟨by omega, hnext, hpulse⟩)

/-- Settles O54, by `exec_minuteBoundary_iff`. -/
theorem minuteBoundaryExactlyOnSyncGap : Obligations.MinuteBoundaryExactlyOnSyncGap :=
  fun _ _ _ h => exec_minuteBoundary_iff h

/-- Settles O59: each case of `exec_sequencing_cases` is one row of the table, or a case it does not list. -/
theorem phaseTransitions : Obligations.PhaseTransitions := by
  intro i s t h
  by_cases hr : i = .reset
  · subst hr
    obtain rfl := Host.Outcome.next.inj h
    rfl
  rcases exec_sequencing_cases hr h with ⟨hsync, hindex, hgap, hpulse⟩ | ⟨hsync, h0, g, hg, hs⟩ |
    ⟨hs, hlt, hsync, hnext, hg, w, bit, hw, hc⟩
  · rw [State.phaseAfter_of_no_transition hr hgap hpulse]
    exact State.phase_congr hsync hindex
  · rw [State.phaseAfter_of_syncGap hr hg hs]
    exact (t.phase_eq_synchronizing_iff 0).2 ⟨hsync, by simp [h0], by omega⟩
  · rw [State.phaseAfter_of_bit hr hg hw hc ((s.phase_eq_synchronizing_iff _).2 ⟨hs, rfl, hlt⟩)]
    split
    · next hlast => exact t.phase_eq_complete_iff.2 ⟨hsync, by omega⟩
    · next hmore => exact (t.phase_eq_synchronizing_iff _).2 ⟨hsync, hnext, by omega⟩

/-- Settles O12, by the window test; under the defaults it is an interval of numerals. -/
theorem syncGapFollowsTheWindow : Obligations.SyncGapFollowsTheWindow := by
  refine ⟨isSyncGap_iff, fun g => ?_⟩
  rw [isSyncGap_iff]
  simp only [Config.default]
  omega

/-- Settles O14: inside the window `EDGE.RISE` performs `SyncFire`. -/
theorem risingEdgeOnSyncGapStartsTheMinute : Obligations.RisingEdgeOnSyncGapStartsTheMinute := by
  intro s now f hf hlo hhi
  rw [exec_edgeRise_of_syncGap hf ((isSyncGap_iff _ _).2 ⟨hlo, hhi⟩)]
  rfl

/-- Settles O15: outside the window `EDGE.RISE` performs `SyncIdle`. -/
theorem risingEdgeOnOrdinaryGapChangesOnlyItsTimestamp :
    Obligations.RisingEdgeOnOrdinaryGapChangesOnlyItsTimestamp := by
  intro s now f hf houtside
  have hg : isSyncGap s.cfg (sub32 now f) = false := by
    rw [Bool.eq_false_iff, ne_eq, isSyncGap_iff]
    omega
  rw [exec_edgeRise_of_ordinaryGap hf hg]
  rfl

end Sys2Proof.Machine

/-! Proofs about the bit accumulator (42_bit_accumulator.md): what `EDGE.FALL` answers to a recognized pulse in each of
the tests of R155, that a filled slot is never overwritten, and what the tap shows. `exec_edgeFall_of_bit` hands the
pulse to the accumulator; `State.storeBit_eq` writes out the one storing update. -/

namespace Sys2Proof.Machine

/-! ### Symbols and the tap (R161) -/

theorem Symbol.ofBit_eq_ite (bit : Bool) : Symbol.ofBit bit = if bit then .one else .zero := by
  cases bit <;> rfl

theorem Tap.ofBit_eq_ite (bit : Bool) : Tap.ofBit bit = if bit then .char1 else .char0 := by
  cases bit <;> rfl

/-! ### A recognized pulse (R155 to R159) -/

/-- The storing update at a known index, its symbol and its tap written out. -/
theorem State.storeBit_eq (bit : Bool) {s : State} {n : Nat} (hn : s.secondIndex.toNat = n) :
    s.storeBit bit =
      { s with
        buf         := Memory.bufWrite s.buf n (Symbol.ofBit bit)
        secondIndex := BitVec.ofNat 8 (n + 1)
        indicator   := !s.indicator
        out         := { s.out with tap := if bit then .char1 else .char0 }
        outcome     := s.outcome ++ [.bitStored n bit] } := by
  have hnext : s.secondIndex + 1 = BitVec.ofNat 8 (s.secondIndex.toNat + 1) := by
    simp [BitVec.ofNat_add]
  subst hn
  rw [State.storeBit, hnext, Tap.ofBit_eq_ite]
  rfl

theorem Memory.read_bufWrite_ofBit {n : Nat} (m : Memory) (bit : Bool) (hn : n < 59) :
    Memory.read (Memory.bufWrite m n (Symbol.ofBit bit)) n = (if bit then .one else .zero) ∧
    ∀ a, a ≠ n → Memory.read (Memory.bufWrite m n (Symbol.ofBit bit)) a = Memory.read m a := by
  have hset := Symbol.ofBit_ne_unset bit
  refine ⟨?_, fun a ha => Memory.read_bufWrite_other m n a _ hset ha⟩
  rw [Memory.read_bufWrite_self m n _ hn hset, Symbol.ofBit_eq_ite]

section
variable {s : State} {now r : U32} {bit : Bool}

/-- A recognized pulse reaches the accumulator as its bit. -/
theorem exec_edgeFall_of_bit (hr : s.tRise = some r) (hc : classify s.cfg (sub32 now r) = .ofBit bit) :
    exec (.edgeFall now) s = .next { s.startOp.accumulateBit (sub32 now r) bit with tFall := some now } := by
  rw [exec_edgeFall, State.edgeFall_some now r s.startOp hr, State.startOp_cfg, hc, State.accumulate_ofBit]

theorem exec_edgeFall_stores (hr : s.tRise = some r) (hc : classify s.cfg (sub32 now r) = .ofBit bit)
    (hs : s.synchronized = true) (hi : s.secondIndex.toNat < 58) :
    exec (.edgeFall now) s = .next { s.startOp.storeBit bit with tFall := some now } := by
  rw [exec_edgeFall_of_bit hr hc, State.accumulateBit_store _ _ s.startOp hs (Nat.lt_succ_of_lt hi),
    State.store_of_lt bit s.startOp hi]

/-- The last bit of the frame `b` is stored and `b` is validated in the same step. -/
theorem exec_edgeFall_last {b : Frame} (hr : s.tRise = some r)
    (hc : classify s.cfg (sub32 now r) = .ofBit (b.getLsbD 58)) (hs : s.synchronized = true)
    (hi : s.secondIndex.toNat = 58) (hb : ∀ i, i < 58 → Memory.read s.buf i = if b.getLsbD i then .one else .zero) :
    exec (.edgeFall now) s =
      .next { (s.startOp.storeBit (b.getLsbD 58)).validate b with tFall := some now } := by
  have hframe : Memory.toBits (s.startOp.storeBit (b.getLsbD 58)).buf = some b :=
    (State.toBits_storeBit_last _ s.startOp b hi).2 ⟨rfl, fun i hlt => (hb i hlt).trans (Symbol.ofBit_eq_ite _).symm⟩
  rw [exec_edgeFall_of_bit hr hc, State.accumulateBit_store _ _ s.startOp hs (hi.trans_lt (by decide)),
    State.store_of_last _ s.startOp hi, State.complete_of_toBits b _ hframe]

end

/-! ### The slot the next bit goes to (R34 item 2) -/

/-- A canonical buffer lists no address above 58. -/
theorem Memory.read_of_ge {lo a : Nat} {m : Memory} (h : Memory.wfFrom lo m = true) (ha : 59 ≤ a) :
    Memory.read m a = .unset := by
  induction m generalizing lo with
  | nil => rfl
  | cons e m ih =>
    obtain ⟨b, x⟩ := e
    obtain ⟨-, hlt, -, htail⟩ := (Memory.wfFrom_cons ..).1 h
    have hne : a ≠ b := by omega
    rw [Memory.read, if_neg hne, ih htail]

theorem State.Inv.read_secondIndex {s : State} (hs : s.Inv) : Memory.read s.buf s.secondIndex.toNat = .unset := by
  rcases Nat.lt_or_ge s.secondIndex.toNat 59 with hlt | hge
  · have hiff := hs.filledPrefix _ hlt
    by_contra hset
    exact Nat.lt_irrefl _ (hiff.1 hset)
  · exact Memory.read_of_ge hs.canonical hge

/-! ### The statements -/

/-- Settles O21: below slot 58 the step is `storeBit` alone, and a buffer write reads back as one slot. -/
theorem recognizedPulseStoresOneBit : Obligations.RecognizedPulseStoresOneBit := by
  intro s now r bit hr hc hs hi
  refine ⟨_, ?_, Memory.read_bufWrite_ofBit s.buf bit (by omega)⟩
  rw [exec_edgeFall_stores hr hc hs (by omega), State.storeBit_eq (s := s.startOp) bit rfl]
  rfl

/-- Settles O22: the step validates the frame of the full buffer, which passes and is assembled. -/
theorem lastBitAssemblesTheTelegram : Obligations.LastBitAssemblesTheTelegram := by
  intro s now r b hr hc hs hi hb hp
  refine ⟨_, ?_, Memory.read_bufWrite_ofBit s.buf (b.getLsbD 58) (by omega)⟩
  rw [exec_edgeFall_last hr hc hs hi hb, State.validate_of_ok b (s.startOp.storeBit _) hp,
    State.storeBit_eq (s := s.startOp) _ hi]
  rfl

/-- Settles O26: a falling edge writes at most slot `secondIndex`, and by the invariant that slot is not filled. -/
theorem noFilledSlotIsOverwritten : Obligations.NoFilledSlotIsOverwritten := by
  intro s t now a hs h hset
  have ha : a ≠ s.secondIndex.toNat := by
    rintro rfl
    exact hset hs.read_secondIndex
  exact exec_read_other_slot (by simp) h (exec_edgeFall_minuteBoundary h) ha

/-- Settles O57: the effects that store drive the tap with the bit of their label, the acquiring echo drives the star,
and no other effect drives the tap or attaches one of these labels. -/
theorem tapShowsWhatTheStepDid : Obligations.TapShowsWhatTheStepDid := by
  intro i s t h
  cases exec_effect h with
  | fallStore now w bit | fallAssemble now w bit | fallParityFailure now w bit => cases bit <;> simp [Tap.ofBit]
  | fallAcquiring => simp
  | _ => simp

/-- Settles O19, by the accumulator's second test: not synchronized. -/
theorem recognizedPulseWhileAcquiringIsOnlyEchoed : Obligations.RecognizedPulseWhileAcquiringIsOnlyEchoed := by
  intro s now r bit hr hc hs
  rw [exec_edgeFall_of_bit hr hc, State.accumulateBit_acquiring _ _ s.startOp hs]
  rfl

/-- Settles O20, by the accumulator's third test: the index is 59 or more. -/
theorem overrunDiscardsTheBit : Obligations.OverrunDiscardsTheBit := by
  intro s now r bit hr hc hs hi
  rw [exec_edgeFall_of_bit hr hc, State.accumulateBit_overrun _ _ s.startOp hs hi]
  rfl

end Sys2Proof.Machine

/-! Proofs about the parity validator (43_parity_validator.md): the ones in a range, and what flipped bits do to the
checks, where `b ^^^ m` is the frame `b` with the bits of the mask `m` flipped. A check of `b ^^^ m` is that of `b`
compared with that of `m` (`evenIn_xor`), so the statements about flips are about the checks of their masks alone. -/

namespace Sys2Proof.Machine

section
variable {b m : Frame} {lo mid hi k : Nat}

/-! ### The ones in a range -/

theorem onesIn_eq_sum (b : Frame) (lo hi : Nat) : onesIn b lo hi = ∑ i ∈ Finset.Ico lo hi, (b.getLsbD i).toNat := by
  rw [Finset.sum_Ico_eq_sum_range, onesIn, frameBits, List.map_map]
  rfl

theorem onesIn_eq_card (b : Frame) (lo hi : Nat) :
    onesIn b lo hi = ((Finset.Ico lo hi).filter fun i => b.getLsbD i = true).card := by
  simp only [onesIn_eq_sum, Finset.card_filter, Bool.toNat, Bool.cond_eq_ite]

theorem onesIn_append (b : Frame) (hlo : lo ≤ mid) (hhi : mid ≤ hi) :
    onesIn b lo mid + onesIn b mid hi = onesIn b lo hi := by
  simp only [onesIn_eq_sum, Finset.sum_Ico_consecutive _ hlo hhi]

/-- A one in both counts twice on the right and is 0 in `b ^^^ m`. -/
theorem onesIn_xor (b m : Frame) (lo hi : Nat) :
    onesIn (b ^^^ m) lo hi + 2 * onesIn (b &&& m) lo hi = onesIn b lo hi + onesIn m lo hi := by
  simp only [onesIn_eq_sum, Finset.mul_sum, ← Finset.sum_add_distrib, BitVec.getLsbD_xor, BitVec.getLsbD_and]
  refine Finset.sum_congr rfl fun i _ => ?_
  cases b.getLsbD i <;> cases m.getLsbD i <;> rfl

/-! ### The check of a range (R171) -/

/-- The check of one range: the three group checks and the legacy check differ in their range only. -/
def evenIn (b : Frame) (lo hi : Nat) : Bool := groupParity b lo hi == 0

theorem okMinutes_eq_evenIn (b : Frame) : okMinutes b = evenIn b 21 29 := rfl

theorem okHours_eq_evenIn (b : Frame) : okHours b = evenIn b 29 36 := rfl

theorem okDate_eq_evenIn (b : Frame) : okDate b = evenIn b 36 59 := rfl

theorem parityCombined_eq_evenIn (b : Frame) : parityCombined b = evenIn b 21 59 := rfl

theorem evenIn_iff (b : Frame) (lo hi : Nat) : evenIn b lo hi = true ↔ Even (onesIn b lo hi) := by
  rw [evenIn, groupParity, beq_iff_eq, Nat.even_iff]

theorem evenIn_iff_even_card (b : Frame) (lo hi : Nat) :
    evenIn b lo hi = true ↔ Even ((Finset.Ico lo hi).filter fun i => b.getLsbD i = true).card := by
  rw [evenIn_iff, onesIn_eq_card]

theorem evenIn_append (b : Frame) (hlo : lo ≤ mid) (hhi : mid ≤ hi) :
    evenIn b lo hi = (evenIn b lo mid == evenIn b mid hi) := by
  rw [Bool.eq_iff_iff, beq_iff_eq, Bool.eq_iff_iff (a := evenIn b lo mid), evenIn_iff, evenIn_iff, evenIn_iff,
    ← onesIn_append b hlo hhi, Nat.even_add]

theorem evenIn_xor (b m : Frame) (lo hi : Nat) : evenIn (b ^^^ m) lo hi = (evenIn b lo hi == evenIn m lo hi) := by
  have heven : Even (onesIn (b ^^^ m) lo hi) ↔ Even (onesIn b lo hi + onesIn m lo hi) := by
    rw [← onesIn_xor, Nat.even_add, iff_true_right (even_two_mul _)]
  rw [Bool.eq_iff_iff, beq_iff_eq, Bool.eq_iff_iff (a := evenIn b lo hi), evenIn_iff, evenIn_iff, evenIn_iff, heven,
    Nat.even_add]

/-- A mask with no one in the range. -/
theorem evenIn_of_no_ones (h : ∀ i, m.getLsbD i = true → ¬ (lo ≤ i ∧ i < hi)) : evenIn m lo hi = true := by
  have hnone : ((Finset.Ico lo hi).filter fun i => m.getLsbD i = true) = ∅ :=
    Finset.filter_eq_empty_iff.2 fun i hi hbit => h i hbit (Finset.mem_Ico.1 hi)
  rw [evenIn_iff_even_card, hnone]
  exact Even.zero

theorem evenIn_singleBit (hk : k < 59) (lo hi : Nat) : evenIn (1#59 <<< k) lo hi = !decide (lo ≤ k ∧ k < hi) := by
  have hbit (i : Nat) : (1#59 <<< k).getLsbD i = true ↔ k = i := by
    rw [← BitVec.twoPow_eq, BitVec.getLsbD_twoPow]
    simp [hk]
  have hones : onesIn (1#59 <<< k) lo hi = if lo ≤ k ∧ k < hi then 1 else 0 := by
    simp only [onesIn_eq_card, hbit, Finset.filter_eq, Finset.mem_Ico, apply_ite Finset.card, Finset.card_singleton,
      Finset.card_empty]
  rw [evenIn, groupParity, hones]
  by_cases hin : lo ≤ k ∧ k < hi <;> simp [hin]

/-! ### The group checks and the modes under a mask of flips (R172 to R174) -/

theorem okMinutes_xor (b m : Frame) : okMinutes (b ^^^ m) = (okMinutes b == okMinutes m) := evenIn_xor b m 21 29

theorem okHours_xor (b m : Frame) : okHours (b ^^^ m) = (okHours b == okHours m) := evenIn_xor b m 29 36

theorem okDate_xor (b m : Frame) : okDate (b ^^^ m) = (okDate b == okDate m) := evenIn_xor b m 36 59

theorem parityCombined_eq_groups (b : Frame) : parityCombined b = (okMinutes b == (okHours b == okDate b)) := by
  rw [parityCombined_eq_evenIn, evenIn_append b (mid := 29) (by omega) (by omega),
    evenIn_append b (lo := 29) (mid := 36) (by omega) (by omega)]
  rfl

theorem parityOK_perField_iff (b : Frame) :
    parityOK .perField b = true ↔ okMinutes b = true ∧ okHours b = true ∧ okDate b = true := by
  simp only [parityOK, Bool.and_eq_true, and_assoc]

theorem parityOK_combinedLegacy (b : Frame) : parityOK .combinedLegacy b = parityCombined b := rfl

/-- A frame that passes still passes after the flips exactly when their mask passes. -/
theorem parityOK_xor_of_parityOK {mode : ParityMode} (m : Frame) (h : parityOK mode b = true) :
    parityOK mode (b ^^^ m) = parityOK mode m := by
  cases mode with
  | perField =>
    obtain ⟨hmin, hhour, hdate⟩ := (parityOK_perField_iff b).1 h
    simp only [parityOK, okMinutes_xor, okHours_xor, okDate_xor, hmin, hhour, hdate, Bool.true_beq]
  | combinedLegacy =>
    have hcomb : evenIn b 21 59 = true := h
    simp only [parityOK_combinedLegacy, parityCombined_eq_evenIn, evenIn_xor, hcomb, Bool.true_beq]

/-- A mask that passes all three group checks changes no parity result. -/
theorem parity_xor_of_groups_ok (mode : ParityMode) (b : Frame) (hmin : okMinutes m = true) (hhour : okHours m = true)
    (hdate : okDate m = true) :
    okMinutes (b ^^^ m) = okMinutes b ∧ okHours (b ^^^ m) = okHours b ∧ okDate (b ^^^ m) = okDate b ∧
    parityOK mode (b ^^^ m) = parityOK mode b := by
  have hm : okMinutes (b ^^^ m) = okMinutes b := by rw [okMinutes_xor, hmin, beq_true]
  have hh : okHours (b ^^^ m) = okHours b := by rw [okHours_xor, hhour, beq_true]
  have hd : okDate (b ^^^ m) = okDate b := by rw [okDate_xor, hdate, beq_true]
  refine ⟨hm, hh, hd, ?_⟩
  cases mode <;> simp only [parityOK, parityCombined_eq_groups, hm, hh, hd]

theorem parityOK_singleBit (mode : ParityMode) (hlo : 21 ≤ k) (hhi : k < 59) :
    parityOK mode (1#59 <<< k) = false := by
  cases mode with
  | perField =>
    rw [← Bool.not_eq_true, parityOK_perField_iff, okMinutes_eq_evenIn, okHours_eq_evenIn, okDate_eq_evenIn]
    simp only [evenIn_singleBit hhi, Bool.not_eq_true', decide_eq_false_iff_not]
    omega
  | combinedLegacy =>
    rw [parityOK_combinedLegacy, parityCombined_eq_evenIn, evenIn_singleBit hhi, decide_eq_true ⟨hlo, hhi⟩]
    rfl

end

/-! ### The statements -/

/-- Settles O31: each group check is the check of its range. -/
theorem groupParityIsEvenness : Obligations.GroupParityIsEvenness := fun b =>
  ⟨evenIn_iff_even_card b 21 29, evenIn_iff_even_card b 29 36, evenIn_iff_even_card b 36 59⟩

/-- Settles O32: the legacy check is the check of one range, `[21,59)`. -/
theorem parityModesAccept : Obligations.ParityModesAccept :=
  ⟨fun b => ⟨parityOK_perField_iff b, evenIn_iff_even_card b 21 59⟩, rfl⟩

/-- Settles O33: the legacy check follows from the three groups, and the mask of bits 21 and 29 is odd in two groups. -/
theorem perFieldIsStricterThanCombined : Obligations.PerFieldIsStricterThanCombined := by
  intro b h
  obtain ⟨hmin, hhour, hdate⟩ := (parityOK_perField_iff b).1 h
  have hcomb : parityOK .combinedLegacy b = true := by
    rw [parityOK_combinedLegacy, parityCombined_eq_groups, hmin, hhour, hdate]
    rfl
  rw [BitVec.xor_assoc, okMinutes_xor, okHours_xor, okDate_xor, hmin, hhour, hdate, parityOK_xor_of_parityOK _ h,
    parityOK_xor_of_parityOK _ hcomb]
  exact ⟨hcomb, by decide⟩

/-- Settles O34: the mask of one bit fails in both modes, and is odd exactly in the group that holds the bit. -/
theorem singleFlipIsRejected : Obligations.SingleFlipIsRejected := by
  intro mode b k hlo hhi
  have flip (lo hi : Nat) :
      evenIn (b ^^^ (1#59 <<< k)) lo hi = if lo ≤ k ∧ k < hi then !evenIn b lo hi else evenIn b lo hi := by
    rw [evenIn_xor, evenIn_singleBit hhi]
    by_cases hin : lo ≤ k ∧ k < hi <;> simp [hin]
  refine ⟨fun h => ?_, ?_, flip 29 36, ?_⟩
  · rw [parityOK_xor_of_parityOK _ h, parityOK_singleBit mode hlo hhi]
  · simpa [hlo, okMinutes_eq_evenIn] using flip 21 29
  · simpa [hhi, okDate_eq_evenIn] using flip 36 59

/-- Settles O35: a bit below 21 lies in no group and an even mask in one group leaves the other two empty, so either mask
passes all three group checks. -/
theorem undetectedFlips : Obligations.UndetectedFlips := by
  refine ⟨fun mode b k hk => ?_, fun mode b m lo hi hgroup hin heven => ?_⟩
  · have ok (lo hi : Nat) (hlo : 21 ≤ lo) : evenIn (1#59 <<< k) lo hi = true := by
      rw [evenIn_singleBit (by omega), decide_eq_false (by omega), Bool.not_false]
    exact parity_xor_of_groups_ok mode b (ok 21 29 (by omega)) (ok 29 36 (by omega)) (ok 36 59 (by omega))
  · have ok (lo' hi' : Nat) (h : (lo', hi') = (lo, hi) ∨ hi' ≤ lo ∨ hi ≤ lo') : evenIn m lo' hi' = true := by
      rcases h with heq | hapart
      · obtain ⟨rfl, rfl⟩ := Prod.mk.inj heq
        exact (evenIn_iff_even_card m lo' hi').2 heven
      · exact evenIn_of_no_ones fun i hbit hi' => by have := hin i hbit; omega
    have hcases : (lo = 21 ∧ hi = 29) ∨ (lo = 29 ∧ hi = 36) ∨ (lo = 36 ∧ hi = 59) := by simpa using hgroup
    refine parity_xor_of_groups_ok mode b (ok 21 29 ?_) (ok 29 36 ?_) (ok 36 59 ?_) <;> rw [Prod.mk.injEq] <;> omega

end Sys2Proof.Machine

/-! Proofs about the Telegram assembler (44_bcd_assembler.md): the BCD sums and their bounds, what `TELEGRAM` answers,
the round trip of R194. A field that holds the encoder's digit bits of a value sums to that value
(`bcd_eq_of_bcdFieldBits`), and the encoder's parity bit makes its group even (`evenIn_of_parityBit`). -/

namespace Sys2Proof.Machine

/-! ### The BCD sum (R181, R182) -/

theorem bcd_eq_sum (b : Frame) (first count : Nat) :
    bcd b first count = ∑ i ∈ Finset.range count, (b.getLsbD (first + i)).toNat * bcdWeights.getD i 0 := rfl

@[simp] theorem bcd_zero (b : Frame) (first : Nat) : bcd b first 0 = 0 := rfl

theorem bcd_succ (b : Frame) (first count : Nat) :
    bcd b first (count + 1) = bcd b first count + bcdWeights.getD count 0 * (b.getLsbD (first + count)).toNat := by
  rw [bcd_eq_sum, bcd_eq_sum, Finset.sum_range_succ, Nat.mul_comm (bcdWeights.getD count 0)]

/-- No field has more than the eight places whose sum is 165, so its sum fits a `u8`. -/
theorem toNat_ofNat_bcd (b : Frame) (first : Nat) {count : Nat} (hc : count ≤ 8) :
    (BitVec.ofNat 8 (bcd b first count)).toNat = bcd b first count := by
  have hplaces : ∀ n ≤ 8, ((List.range n).map fun i => bcdWeights.getD i 0).sum ≤ 165 := by decide
  have hle : bcd b first count ≤ 165 := (bcd_le b first count).trans (hplaces count hc)
  rw [BitVec.toNat_ofNat, Nat.mod_eq_of_lt (by omega)]

/-- The numeric fields of the Telegram are the raw sums. -/
theorem telegramOf_toNat (b : Frame) :
    (telegramOf b).minute.toNat = (fieldsOf b).minute ∧ (telegramOf b).hour.toNat = (fieldsOf b).hour ∧
    (telegramOf b).dayOfMonth.toNat = (fieldsOf b).dayOfMonth ∧
    (telegramOf b).weekday.toNat = (fieldsOf b).weekday ∧ (telegramOf b).month.toNat = (fieldsOf b).month ∧
    (telegramOf b).year.toNat = (fieldsOf b).year :=
  ⟨toNat_ofNat_bcd b 21 (by omega), toNat_ofNat_bcd b 29 (by omega), toNat_ofNat_bcd b 36 (by omega),
    toNat_ofNat_bcd b 42 (by omega), toNat_ofNat_bcd b 45 (by omega), toNat_ofNat_bcd b 50 (by omega)⟩

/-- The flag is read from the sum of bits 17 and 18 (R184). -/
theorem telegramOf_dstFlag (b : Frame) :
    (telegramOf b).dstFlag = dstOf ((b.getLsbD 17).toNat + 2 * (b.getLsbD 18).toNat) := by
  simp [telegramOf, fieldsOf, bcd_succ, bcdWeights]

/-! ### A field that holds a value's digits (R194) -/

theorem sum_testBit_eq_mod (v n : Nat) : ∑ i ∈ Finset.range n, (v.testBit i).toNat * 2 ^ i = v % 2 ^ n := by
  induction n with
  | zero => simp [Nat.mod_one]
  | succ n ih => rw [Finset.sum_range_succ, ih, Nat.mod_pow_succ, Nat.toNat_testBit, Nat.mul_comm (2 ^ n)]

/-- The first four places are the units digit's, with the weights of a binary number. -/
theorem sum_unitsBits (v : Nat) {n : Nat} (hn : n ≤ 4) :
    ∑ i ∈ Finset.range n, (bcdFieldBit v i).toNat * bcdWeights.getD i 0 = v % 10 % 2 ^ n := by
  have hweight : ∀ i < 4, bcdWeights.getD i 0 = 2 ^ i := by decide
  rw [← sum_testBit_eq_mod]
  refine Finset.sum_congr rfl fun i hi => ?_
  have hlt : i < 4 := (Finset.mem_range.1 hi).trans_le hn
  rw [bcdFieldBit, if_pos hlt, hweight i hlt]

/-- The places from the fifth on are the tens digit's, with ten times these weights. -/
theorem sum_tensBits (v : Nat) {n : Nat} (hn : n ≤ 4) :
    ∑ i ∈ Finset.range n, (bcdFieldBit v (4 + i)).toNat * bcdWeights.getD (4 + i) 0 = 10 * (v / 10 % 2 ^ n) := by
  have hweight : ∀ i < 4, bcdWeights.getD (4 + i) 0 = 10 * 2 ^ i := by decide
  rw [← sum_testBit_eq_mod, Finset.mul_sum]
  refine Finset.sum_congr rfl fun i hi => ?_
  rw [bcdFieldBit, if_neg (by omega), Nat.add_sub_cancel_left, hweight i ((Finset.mem_range.1 hi).trans_le hn),
    Nat.mul_left_comm]

/-- A field that holds the digit bits of a value that fits it sums to that value. -/
theorem bcd_eq_of_bcdFieldBits {b : Frame} {first count v : Nat} (hc : count ≤ 8) (hfit : fitsBcd count v = true)
    (hbits : ∀ i < count, b.getLsbD (first + i) = bcdFieldBit v i) : bcd b first count = v := by
  have hsum : bcd b first count = ∑ i ∈ Finset.range count, (bcdFieldBit v i).toNat * bcdWeights.getD i 0 := by
    rw [bcd_eq_sum]
    exact Finset.sum_congr rfl fun i hi => by rw [hbits i (Finset.mem_range.1 hi)]
  rw [hsum]
  rcases Nat.lt_or_ge 4 count with htens | hunits
  · obtain ⟨k, rfl⟩ := Nat.exists_eq_add_of_le htens.le
    have hwidth : v / 10 < 2 ^ k := by simpa [fitsBcd, Nat.not_le.2 htens] using hfit
    rw [Finset.sum_range_add, sum_unitsBits v le_rfl, sum_tensBits v (by omega), Nat.mod_eq_of_lt hwidth]
    omega
  · obtain ⟨hdigit, hwidth⟩ : v < 10 ∧ v < 2 ^ count := by simpa [fitsBcd, hunits] using hfit
    rw [sum_unitsBits v hunits, Nat.mod_eq_of_lt hdigit, Nat.mod_eq_of_lt hwidth]

/-! ### The encoder's frame (R194) -/

/-- The frame before its parity bits are set: the encoder counts its ones. -/
def dataFrame (head : Frame) (v : TelegramValues) : Frame := packBits (dataBit head v) 59

section
variable (head : Frame) (v : TelegramValues) {i : Nat}

theorem dataFrame_getLsbD (hi : i < 59) : (dataFrame head v).getLsbD i = dataBit head v i := by
  rw [dataFrame, packBits_getLsbD, decide_eq_true hi, Bool.true_and]

theorem encodeTelegram_getLsbD (hi : i < 59) :
    (encodeTelegram head v).getLsbD i =
      if i = 28 then groupParity (dataFrame head v) 21 28 == 1
      else if i = 35 then groupParity (dataFrame head v) 29 35 == 1
      else if i = 58 then groupParity (dataFrame head v) 36 58 == 1
      else (dataFrame head v).getLsbD i := by
  rw [encodeTelegram, packBits_getLsbD, decide_eq_true hi, Bool.true_and]
  rfl

/-- Outside the three parity bits the encoder leaves the data. -/
theorem encodeTelegram_getLsbD_data (hi : i < 59) (hmin : i ≠ 28) (hhour : i ≠ 35) (hdate : i ≠ 58) :
    (encodeTelegram head v).getLsbD i = (dataFrame head v).getLsbD i := by
  rw [encodeTelegram_getLsbD head v hi, if_neg hmin, if_neg hhour, if_neg hdate]

theorem encodeTelegram_getLsbD_head (hi : i < 21) : (encodeTelegram head v).getLsbD i = head.getLsbD i := by
  rw [encodeTelegram_getLsbD_data head v (by omega) (by omega) (by omega) (by omega),
    dataFrame_getLsbD head v (by omega), dataBit, if_pos hi]

/-- Each field holds the digit bits of its value. -/
theorem encodeTelegram_getLsbD_fields :
    (∀ i < 7, (encodeTelegram head v).getLsbD (21 + i) = bcdFieldBit v.minute i) ∧
    (∀ i < 6, (encodeTelegram head v).getLsbD (29 + i) = bcdFieldBit v.hour i) ∧
    (∀ i < 6, (encodeTelegram head v).getLsbD (36 + i) = bcdFieldBit v.dayOfMonth i) ∧
    (∀ i < 3, (encodeTelegram head v).getLsbD (42 + i) = bcdFieldBit v.weekday i) ∧
    (∀ i < 5, (encodeTelegram head v).getLsbD (45 + i) = bcdFieldBit v.month i) ∧
    (∀ i < 8, (encodeTelegram head v).getLsbD (50 + i) = bcdFieldBit v.year i) := by
  refine ⟨?_, ?_, ?_, ?_, ?_, ?_⟩ <;> intro i hi <;>
    simp (disch := omega) only [encodeTelegram_getLsbD_data, dataFrame_getLsbD, dataBit, if_neg, if_pos,
      Nat.add_sub_cancel_left]

theorem fieldsOf_encodeTelegram (hfits : v.fits = true) :
    (fieldsOf (encodeTelegram head v)).minute = v.minute ∧ (fieldsOf (encodeTelegram head v)).hour = v.hour ∧
    (fieldsOf (encodeTelegram head v)).dayOfMonth = v.dayOfMonth ∧
    (fieldsOf (encodeTelegram head v)).weekday = v.weekday ∧ (fieldsOf (encodeTelegram head v)).month = v.month ∧
    (fieldsOf (encodeTelegram head v)).year = v.year := by
  simp only [TelegramValues.fits, Bool.and_eq_true] at hfits
  obtain ⟨⟨⟨⟨⟨fmin, fhour⟩, fday⟩, fwday⟩, fmonth⟩, fyear⟩ := hfits
  obtain ⟨hmin, hhour, hday, hwday, hmonth, hyear⟩ := encodeTelegram_getLsbD_fields head v
  exact ⟨bcd_eq_of_bcdFieldBits (by omega) fmin hmin, bcd_eq_of_bcdFieldBits (by omega) fhour hhour,
    bcd_eq_of_bcdFieldBits (by omega) fday hday, bcd_eq_of_bcdFieldBits (by omega) fwday hwday,
    bcd_eq_of_bcdFieldBits (by omega) fmonth hmonth, bcd_eq_of_bcdFieldBits (by omega) fyear hyear⟩

end

/-! ### The encoder's parity bits (R172, R194) -/

section
variable {b d : Frame} {lo k : Nat}

/-- A parity bit that holds the parity of the bits before it makes the whole group even. -/
theorem evenIn_of_parityBit (hlo : lo ≤ k) (hdata : ∀ i, lo ≤ i → i < k → b.getLsbD i = d.getLsbD i)
    (hparity : b.getLsbD k = (groupParity d lo k == 1)) : evenIn b lo (k + 1) = true := by
  have hbit : evenIn b k (k + 1) = !b.getLsbD k := by
    rw [evenIn, groupParity, onesIn_eq_sum, Finset.sum_Ico_succ_top le_rfl, Finset.Ico_self, Finset.sum_empty]
    cases b.getLsbD k <;> rfl
  have hrest : evenIn b lo k = !b.getLsbD k := by
    rw [evenIn, groupParity_congr hdata, hparity, groupParity]
    rcases Nat.mod_two_eq_zero_or_one (onesIn d lo k) with h | h <;> rw [h] <;> rfl
  rw [evenIn_append b hlo (Nat.le_succ k), hrest, hbit, beq_self_eq_true]

theorem okGroups_encodeTelegram (head : Frame) (v : TelegramValues) :
    okMinutes (encodeTelegram head v) = true ∧ okHours (encodeTelegram head v) = true ∧
    okDate (encodeTelegram head v) = true := by
  have data (i : Nat) (hin : 21 ≤ i ∧ i < 28 ∨ 29 ≤ i ∧ i < 35 ∨ 36 ≤ i ∧ i < 58) :
      (encodeTelegram head v).getLsbD i = (dataFrame head v).getLsbD i :=
    encodeTelegram_getLsbD_data head v (by omega) (by omega) (by omega) (by omega)
  have parity {i : Nat} (hi : i < 59) := encodeTelegram_getLsbD head v hi
  exact ⟨evenIn_of_parityBit (by omega) (fun i hlo hlt => data i (by omega)) (parity (i := 28) (by omega)),
    evenIn_of_parityBit (by omega) (fun i hlo hlt => data i (by omega)) (parity (i := 35) (by omega)),
    evenIn_of_parityBit (by omega) (fun i hlo hlt => data i (by omega)) (parity (i := 58) (by omega))⟩

/-- Both modes accept a frame that passes the three group checks (R175 item 1). -/
theorem parityOK_of_okGroups (mode : ParityMode) (hmin : okMinutes b = true) (hhour : okHours b = true)
    (hdate : okDate b = true) : parityOK mode b = true := by
  cases mode with
  | perField => exact (parityOK_perField_iff b).2 ⟨hmin, hhour, hdate⟩
  | combinedLegacy =>
    rw [parityOK_combinedLegacy, parityCombined_eq_groups, hmin, hhour, hdate]
    rfl

end

/-! ### The statements -/

/-- Settles O28: the sum of R181, place by place. -/
theorem fieldsAreTheWeightedSums : Obligations.FieldsAreTheWeightedSums := by
  intro b v
  simp [fieldsOf, bcd_succ, bcdWeights, v]

/-- Settles O29: each sum is within its largest value, and that fits a `u8`. -/
theorem telegramHoldsTheSumsWithoutOverflow : Obligations.TelegramHoldsTheSumsWithoutOverflow := by
  refine ⟨fun b => ?_, by decide⟩
  obtain ⟨hmin, hhour, hday, hwday, hmonth, hyear⟩ := telegramOf_toNat b
  exact ⟨hmin, bcd_le b 21 7, hhour, bcd_le b 29 6, hday, bcd_le b 36 6, hwday, bcd_le b 42 3, hmonth, bcd_le b 45 5,
    hyear, bcd_le b 50 8, bcd_le b 17 2⟩

/-- Settles O30: the four values of `b[17] + 2 * b[18]`. -/
theorem dstFlagFollowsItsTwoBits : Obligations.DstFlagFollowsItsTwoBits := by
  refine ⟨rfl, rfl, rfl, rfl, fun b => ?_⟩
  rw [telegramOf_dstFlag]
  cases b.getLsbD 17 <;> cases b.getLsbD 18 <;> rfl

/-- Settles O27: the two clauses are the two sides of the assembler's precondition (R180). -/
theorem telegramOperationAssemblesOrRejects : Obligations.TelegramOperationAssemblesOrRejects := by
  intro s b
  have hfull : Memory.toBits s.buf = some b ↔
      ∀ i, i < 59 → Memory.read s.buf i = if b.getLsbD i then .one else .zero := by
    simp only [Memory.toBits_eq_some, Symbol.ofBit_eq_ite]
  refine ⟨fun hread hok => exec_telegram_invoked b s ⟨hfull.2 hread, hok⟩, fun hfail => ?_⟩
  refine exec_telegram_not_invoked b s fun ⟨hb, hok⟩ => ?_
  rcases hfail with ⟨i, hi, hne⟩ | hbad
  · exact hne (hfull.1 hb i hi)
  · exact Bool.false_ne_true (hbad.symm.trans hok)

/-- Settles O37: the encoder's frame passes the three group checks, so the edge assembles it, and each of its fields sums
to its value. -/
theorem encodedTelegramIsRecovered : Obligations.EncodedTelegramIsRecovered := by
  intro s now r head v hfits hr hc hs hi hb
  obtain ⟨hokMin, hokHour, hokDate⟩ := okGroups_encodeTelegram head v
  have hok := parityOK_of_okGroups s.cfg.parityMode hokMin hokHour hokDate
  have hexec := exec_edgeFall_last hr hc hs hi hb
  rw [State.validate_of_ok _ (s.startOp.storeBit _) hok] at hexec
  have hhead (i : Nat) (hlt : i < 21) := encodeTelegram_getLsbD_head head v hlt
  have hdst : (telegramOf (encodeTelegram head v)).dstFlag =
      dstOf ((head.getLsbD 17).toNat + 2 * (head.getLsbD 18).toNat) := by
    rw [telegramOf_dstFlag, hhead 17 (by omega), hhead 18 (by omega)]
  obtain ⟨tmin, thour, tday, twday, tmonth, tyear⟩ := telegramOf_toNat (encodeTelegram head v)
  obtain ⟨fmin, fhour, fday, fwday, fmonth, fyear⟩ := fieldsOf_encodeTelegram head v hfits
  exact ⟨_, telegramOf (encodeTelegram head v), hexec, rfl, rfl, tmin.trans fmin, thour.trans fhour, tday.trans fday,
    twday.trans fwday, tmonth.trans fmonth, tyear.trans fyear, hdst, hhead, hokMin, hokHour, hokDate⟩

end Sys2Proof.Machine

/-! Proofs about the system operations and the mailbox (45_system_ops.md): what `TAKE`, `RESET`, `CAPTURE`, `POLL.BEGIN`
and `POLL.END` answer. A poll that finds an edge is the `EDGE` step of the mailbox's level (`exec_edgeInstr`), and that
step does not write the mailbox. -/

namespace Sys2Proof.Machine

/-! ### Steps that only attach a label, and the `EDGE` step of a level -/

theorem State.signal_startOp (l : Label) (s : State) :
    s.startOp.signal l = { s with out := {}, outcome := [l] } := rfl

/-- The level alone selects the operation (R210). -/
theorem exec_edgeInstr (level : Bool) (now : U32) (s : State) :
    exec (if level then .edgeRise now else .edgeFall now) s = .next (s.startOp.edge level now) := by
  cases level with
  | false => exact exec_edgeFall now s
  | true => exact exec_edgeRise now s

theorem State.phase_eq_acquiring {s : State} (h : s.synchronized = false) : s.phase = .acquiring := by
  simp [State.phase, h]

/-! ### The statements -/

/-- Settles O39: the answer of `exec_take`, with the start of the step written out. -/
theorem takeClearsOnlyTheFreshFlag : Obligations.TakeClearsOnlyTheFreshFlag := exec_take

/-- Settles O42: the answer of `exec_capture`, with the start of the step written out. -/
theorem captureWritesOnlyTheMailbox : Obligations.CaptureWritesOnlyTheMailbox :=
  fun s level => exec_capture level s

/-- Settles O44: the two sides of the test of `pollBusy`. -/
theorem pollEndAcknowledges : Obligations.PollEndAcknowledges := by
  refine fun s => ⟨fun hbusy => exec_pollEnd_busy s hbusy, fun hidle => ?_⟩
  rw [exec_pollEnd_nothing s hidle, State.signal_startOp]

/-- Settles O43: a poll that acts is the `EDGE` step of the mailbox's level, which keeps `edgePending`. -/
theorem pollBeginPerformsTheMailboxEdge : Obligations.PollBeginPerformsTheMailboxEdge := by
  intro s now
  constructor
  · intro hidle hpending
    refine ⟨_, exec_edgeInstr s.edgeLevel now s, exec_pollBegin_pending now s hidle hpending, ?_⟩
    rw [State.edge_edgePending, State.startOp_edgePending, hpending]
  · intro hnothing
    have hguard : ¬ (s.pollBusy = false ∧ s.edgePending = true) := by
      rintro ⟨hidle, hpending⟩
      simp [hidle, hpending] at hnothing
    rw [exec_pollBegin_nothing now s hguard, State.signal_startOp]

/-- Settles O40: `resetRegisters` leaves `synchronized` and `pollBusy` at 0, so the phase is `Acquiring` and `POLL.END`
finds no poll under way. -/
theorem resetLeavesTheResetRegisters : Obligations.ResetLeavesTheResetRegisters := by
  intro s
  refine ⟨_, Config.freeEdgeLevel s.freeUses, s.freeUses + 1, exec_reset s, rfl, ?_, ?_⟩
  · exact State.phase_eq_acquiring (State.resetRegisters_synchronized s.startOp)
  · exact (pollEndAcknowledges _).2 (State.resetRegisters_pollBusy s.startOp)

end Sys2Proof.Machine

/-! Proofs about the outcomes of a step (60_exceptions.md): nothing is fatal, an error is a label of a falling edge and
changes no more than its rule says, and words presented at one time are put in one order. The errors of an operation
are read off its effect (`exec_effect`) as the labels that pass the filter `Label.isError`. -/

namespace Sys2Proof.Machine

/-! ### Nothing is fatal (R220) -/

/-- Each operation answers a next state on both sides of its test, where it has one. -/
theorem exec_completes (i : Instr) (s : State) : Completes (exec i s) := by
  cases i with
  | edgeRise | edgeFall | take | reset | capture => exact ⟨_, rfl⟩
  | pollBegin now =>
    by_cases hact : s.pollBusy = false ∧ s.edgePending = true
    · exact ⟨_, exec_pollBegin_pending now s hact.1 hact.2⟩
    · exact ⟨_, exec_pollBegin_nothing now s hact⟩
  | pollEnd =>
    cases hbusy : s.pollBusy with
    | false => exact ⟨_, exec_pollEnd_nothing s hbusy⟩
    | true => exact ⟨_, exec_pollEnd_busy s hbusy⟩
  | telegram b =>
    by_cases hfull : Memory.toBits s.buf = some b ∧ parityOK s.cfg.parityMode b = true
    · exact ⟨_, exec_telegram_invoked b s hfull⟩
    · exact ⟨_, exec_telegram_not_invoked b s hfull⟩

/-! ### The errors of an operation (R226, R232) -/

/-- An operation signals no error, or performs a falling edge and signals one. -/
theorem exec_errors_cases {i : Instr} {s t : State} (h : exec i s = .next t) :
    t.outcome.filter Label.isError = [] ∨
    ∃ now e, s.edgeOf i = some (false, now) ∧ t.outcome.filter Label.isError = [e] := by
  cases exec_effect h with
  | fallUnrecognized now w busy he | fallOverrun now w bit busy he | fallParityFailure now w bit b busy he =>
    exact .inr ⟨now, _, he, rfl⟩
  | _ => exact .inl rfl

/-! ### Words presented at one time (R231) -/

theorem serialise_of_reset {ws : List PortWord} (h : .reset 1#1 ∈ ws) : serialise ws = [.reset 1#1] := by
  simp [serialise, h]

theorem serialise_of_no_reset {ws : List PortWord} (h : .reset 1#1 ∉ ws) :
    serialise ws = ws.filter (fun p => decide (p ≠ .take 1#1)) ++ ws.filter (fun p => decide (p = .take 1#1)) := by
  simp [serialise, h]

/-! ### The statements -/

/-- Settles O23: the step validates the frame of the full buffer, which fails and is only signalled. -/
theorem parityFailureKeepsTheOldTelegram : Obligations.ParityFailureKeepsTheOldTelegram := by
  intro s now r b hr hc hs hi hb hp
  refine ⟨_, ?_, Memory.read_bufWrite_ofBit s.buf (b.getLsbD 58) (by omega)⟩
  rw [exec_edgeFall_last hr hc hs hi hb, State.validate_of_bad b (s.startOp.storeBit _) hp,
    State.storeBit_eq (s := s.startOp) _ hi]
  rfl

/-- Settles O58, by the two cases of `exec_errors_cases`. -/
theorem errorsOnlyOnFallingEdges : Obligations.ErrorsOnlyOnFallingEdges := by
  intro i s t h
  rcases exec_errors_cases h with hnone | ⟨now, e, hfall, hone⟩
  · refine ⟨by simp [hnone], ?_⟩
    rintro ⟨e, hmem, herr⟩
    exact absurd herr (List.filter_eq_nil_iff.1 hnone e hmem)
  · exact ⟨by simp [hone], fun _ => ⟨now, hfall⟩⟩

/-- Settles O9: every operation completes, and a step that performs none answers the start of a step. -/
theorem nothingIsFatal : Obligations.NothingIsFatal := by
  refine ⟨exec_completes, fun s => ?_⟩
  rcases step_cases s with ⟨-, hstep⟩ | ⟨_, _, _, -, -, hstep⟩ | ⟨_, _, i, -, -, hstep⟩ <;> rw [hstep]
  · exact ⟨_, rfl⟩
  · exact ⟨_, rfl⟩
  · exact exec_completes i _

/-- Settles O18, by the accumulator's first test, which comes before it looks at the phase. -/
theorem unrecognizedPulseIsDropped : Obligations.UnrecognizedPulseIsDropped := by
  intro s now r hr hc
  rw [exec_edgeFall, State.edgeFall_some now r s.startOp hr, State.startOp_cfg, hc]
  rfl

/-- Settles O47: a reset word is performed alone, and without one the take words come last. -/
theorem simultaneousWordsAreSerialised : Obligations.SimultaneousWordsAreSerialised := by
  refine ⟨fun s ws h => ?_, fun s w => ⟨?_, ?_⟩⟩
  · rw [State.present_input, serialise_of_reset h]
  · simp [serialise_of_no_reset]
  · simp [serialise_of_no_reset]

end Sys2Proof.Machine

/-! Proofs about the mailbox's hazards (70_reset_and_hazards.md): the two ways an edge is lost (R271). `CAPTURE` writes
both mailbox cells and looks at neither, and `POLL.END` acknowledges whatever the mailbox then holds. -/

namespace Sys2Proof.Machine

/-- The state after a `CAPTURE`, in the form that a second operation rewrites. -/
theorem eq_of_exec_capture {level : Bool} {s t : State} (h : exec (.capture level) s = .next t) :
    t = { s.startOp with edgeLevel := level, edgePending := true } :=
  (Host.Outcome.next.inj ((exec_capture level s).symm.trans h)).symm

/-- Settles O45: the second `CAPTURE` overwrites both cells that the first wrote, and `CAPTURE` keeps `pollBusy`, so
`POLL.END` clears the flag it set. -/
theorem mailboxLosesEdges : Obligations.MailboxLosesEdges := by
  constructor
  · intro s t first second hfirst
    obtain rfl := eq_of_exec_capture hfirst
    rw [exec_capture, exec_capture]
    rfl
  · intro s t level hbusy hcapture
    obtain rfl := eq_of_exec_capture hcapture
    exact (pollEndAcknowledges _).1 hbusy

end Sys2Proof.Machine
